-- ==== Sys2Proof/Word.lean ====
section
/-! DEFINITION. The bit vectors of the block: the command word and the buffer byte (30_encoding.md R96, 20_memory.md R60). -/

namespace Sys2Proof

/-- The 64-bit command word (R96); bit 0 is the least significant bit (R15). -/
abbrev Word := BitVec 64

/-- One byte of a buffer or of the wire (R15, R60). -/
abbrev Byte := BitVec 8

/-- A buffer number, 0 or 1 (R36). -/
abbrev BufNo := BitVec 1

end Sys2Proof
end

