-- ==== Sys2Proof/Config.lean ====
section
/-! DEFINITION. What is fixed when the block is constructed (00_scope.md R10 to R12) and the values the spec leaves free (R38, R253). -/

namespace Sys2Proof

/-- PD's mux-pattern (R10): binary address or one-hot "straight". -/
inductive MuxPattern where
  | binary
  | straight
  deriving DecidableEq, Repr

/-- PD's scan-pattern (R10). -/
inductive ScanPattern where
  | linear
  | zigzag
  | zigzagRevnibble
  deriving DecidableEq, Repr

/-- Which half of an 8-row group is mirrored (R11, R125). -/
inductive RevnibHalf where
  | low
  | high
  deriving DecidableEq, Repr

/-- The order of a slice's bytes on the wire (R12, R63). -/
inductive TxOrder where
  | descending
  | ascending
  deriving DecidableEq, Repr

/-- The construction parameters (R10, R11, R12), inputs of reset that cannot change afterwards (R290). -/
structure Config where
  /-- `W`, panel width in pixels (R10). -/
  w : Nat
  /-- `H`, panel height in pixels (R10). -/
  h : Nat
  /-- `RP`, the number of multiplexer addresses (R10; 90_conflicts.md C1). -/
  rp : Nat
  /-- `MUX` (R10). -/
  muxPattern : MuxPattern
  /-- `SCAN` (R10). -/
  scanPattern : ScanPattern
  /-- `ROTATE` (R10). -/
  rotate : Bool
  /-- `RED_OFFSET` (R11). -/
  redOffset : Int
  /-- `GREEN_OFFSET` (R11). -/
  greenOffset : Int
  /-- `BLUE_OFFSET` (R11). -/
  blueOffset : Int
  /-- `G_STAGGER` (R11). -/
  gStagger : Nat
  /-- `B_STAGGER` (R11). -/
  bStagger : Nat
  /-- `REVNIB_HALF` (R11). -/
  revnibHalf : RevnibHalf
  /-- `N_ADDR`, the number of multiplexer address lines (R12). -/
  nAddr : Nat
  /-- `TX_ORDER` (R12). -/
  txOrder : TxOrder
  /-- `STEPS_PER_TICK` (R12). -/
  stepsPerTick : Nat
  /-- `T_TICK_US`, read by no rule (R12). -/
  tTickUs : Nat
  /-- `SWAP_TIMEOUT_US`, read by no rule of the untimed model (R12). -/
  swapTimeoutUs : Nat
  deriving DecidableEq, Repr

/-- `COLOR_DEPTH`, fixed at 8 (R10). -/
def colorDepth : Nat := 8

/-- The configuration with the six parameters that have no default, all others at the defaults of R11 and R12. -/
def Config.standard (w h rp : Nat) (m : MuxPattern) (sc : ScanPattern) (rot : Bool) : Config :=
  { w := w, h := h, rp := rp, muxPattern := m, scanPattern := sc, rotate := rot,
    redOffset := 0, greenOffset := 0, blueOffset := 0, gStagger := 2, bStagger := 5, revnibHalf := .low,
    nAddr := 5, txOrder := .descending, stepsPerTick := rp, tTickUs := 1000, swapTimeoutUs := 1000000 }

/-- The transport's answer to one scan step (R253). -/
inductive Transport where
  /-- All four actions succeed. -/
  | ok
  /-- The transmission fails after `k` bytes. -/
  | txfail (k : Nat)
  /-- The latch control fails after the whole slice. -/
  | latfail
  /-- The output-enable control fails after the latch pulse. -/
  | oefail
  deriving DecidableEq, Repr, Inhabited

/-- FREE VALUE (R38, D26; log 3): the byte at offset `a` of buffer `b` after restart number `n`, where no launch parameter gives it. -/
opaque Config.initByte (n b a : Nat) : Byte

/-- FREE VALUE (R253, D23; log 4): the transport's answer to scan step number `n` begun, where `State.oracle` gives none. -/
opaque Config.transport (n : Nat) : Transport

end Sys2Proof
end

