-- ==== Sys2Proof/Machine/State.lean ====
section
/-! DEFINITION. The state of the block as plain data (10_state.md), the reasons a step can stop, and the state right after reset (R42, R290). -/

namespace Sys2Proof.Machine

/-- The two bit-plane buffers (R36). The cells are the bytes that differ from the launch contents, addresses strictly rising;
`init0` and `init1` are the launch parameters `INIT0`, `INIT1` (R38), listed from offset 0, and `launch` numbers the restart
whose free bytes stand where a launch parameter gives none (log 3, log 14). -/
structure Memory where
  launch : Nat
  init0 : List Byte
  init1 : List Byte
  cells0 : List Host.Cell
  cells1 : List Host.Cell
  deriving DecidableEq, Repr

/-- The levels of the pins (R40); `a` holds the address lines, line `i` in bit `i`, at most 15 lines (R12). -/
structure Pins where
  a : BitVec 15
  sdo : Bool
  lat : Bool
  oe : Bool
  pwrEn : Bool
  deriving DecidableEq, Repr

/-- The events of the output trace (R41). -/
inductive Event where
  /-- `A(v)`: the address lines are driven to `v`. -/
  | addr (v : BitVec 15)
  /-- `TX(b)`: a byte is shifted out, bit 7 first. -/
  | tx (b : Byte)
  /-- `LAT`: one latch pulse. -/
  | lat
  /-- `OE(t)`: output-enable for `t` microseconds. -/
  | oe (t : BitVec 16)
  /-- `PWR(l)`: `PWR_EN` is driven to `l`. -/
  | pwr (l : Bool)
  /-- `RSP(v)`: `v` is returned to the writer. -/
  | rsp (v : BitVec 32)
  deriving DecidableEq, Repr

/-- One `SetBit` the writer owes (R16, R126): bit `bit` of the byte at `off` of buffer `buf` becomes `val`. -/
structure BitWrite where
  buf : BufNo
  off : Nat
  bit : Nat
  val : Bool
  deriving DecidableEq, Repr

/-- The scanner's operation in progress (R170, R175, R181). `buf`, `plane`, `mux` and `outcome` belong to the scan step whose next
action is number `pos`: 0 begins the step, 1 to `SRB` send a byte, `SRB + 1` pulses the latch, `SRB + 2` output-enable. -/
structure ScanJob where
  /-- Started by `SCANSTEP`: explicit arguments, no sequencer and no swap protocol (R181). -/
  direct : Bool
  buf : BufNo
  plane : BitVec 3
  mux : BitVec 5
  /-- The on-time of every step of the job (R175). -/
  t : BitVec 16
  /-- The transport's answer to the step, drawn when it begins (R253). -/
  outcome : Transport
  pos : Nat
  /-- How many scan steps the job still has to begin after this one (R175). -/
  more : Nat
  deriving DecidableEq, Repr

/-- What reaches the block from outside, in the order it occurs (R96; log 5, log 6, log 14). -/
inductive Input where
  /-- A command word or timer stimulus; with `hold` its byte accesses are left to later turns. -/
  | word (w : Word) (hold : Bool)
  /-- The writer's pixel operation in progress performs its next `n` writes. -/
  | writerTurn (n : Nat)
  /-- The scanner's operation in progress performs its next `n` actions. -/
  | scannerTurn (n : Nat)
  /-- Reset (R290), with the launch parameters `INIT0` and `INIT1`. -/
  | restart (init0 init1 : List Byte)
  deriving DecidableEq, Repr

/-- The whole state: the registers, flags, buffers and pins of 10_state.md, the construction parameters, the trace, and the model's own
record of the environment and of the operations in progress. -/
structure State where
  /-- The construction parameters (R10 to R12, R34), never written (R290). -/
  cfg : Config
  /-- `WRBUF` (R21). -/
  wrbuf : BufNo
  /-- `SELBUF_R` (R22). -/
  selbufR : BufNo
  /-- `ACTBUF` (R23). -/
  actbuf : BufNo
  /-- `PLANE` (R24). -/
  plane : BitVec 3
  /-- `MUX` (R24). -/
  mux : BitVec 5
  /-- `ONTIME` (R25). -/
  ontime : BitVec 16
  /-- `SWAPRDY` (R26). -/
  swaprdy : Bool
  /-- `RUN` (R27). -/
  run : Bool
  /-- `FAULT` (R28). -/
  fault : Bool
  /-- `FINFO.FCAUSE` (R29, R254). -/
  fcause : BitVec 3
  /-- `FINFO.FPLANE` (R29). -/
  fplane : BitVec 3
  /-- `FINFO.FMUX` (R29). -/
  fmux : BitVec 5
  /-- `FINFO.FBUF` (R29). -/
  fbuf : BufNo
  /-- `CMDERR` (R30). -/
  cmderr : Bool
  /-- `SWAPPEND` (R31). -/
  swappend : Bool
  /-- The two buffers (R36). -/
  mem : Memory
  /-- The pins (R40). -/
  pins : Pins
  /-- The output trace (R41), oldest event first (log 13). -/
  trace : List Event
  /-- The writes the writer still owes of its pixel operation in progress (R74; log 6). -/
  wq : List BitWrite
  /-- The scanner's operation in progress (R74; log 6). -/
  scan : Option ScanJob
  /-- Whether the word just accepted is only begun (log 6). -/
  hold : Bool
  /-- The transport's answers to the coming scan steps (R253; log 4). -/
  oracle : List Transport
  /-- How many scan steps have begun (log 4). -/
  draws : Nat
  /-- What is still to come from outside (R96; log 5). -/
  inputs : List Input
  deriving DecidableEq, Repr

/-- Faults of the model. (The block's own `TransportFault` is a next state, R256.) -/
inductive Fault where
  /-- A scan step would read an offset outside `0 .. FB-1`, which does not exist (R72). Raised by `TICK`, `STEP`, `SCANSTEP` and a scanner
  turn, only in states that no run from a legal configuration reaches. Safe (log 16). -/
  | readOutsideBuffer
  /-- A pixel write would change an offset outside `0 .. FB-1` (R72). Raised by `SETPX`, `SETPXB` and a writer turn, only in states that
  no run from a legal configuration reaches. Safe (log 16). -/
  | writeOutsideBuffer
  deriving DecidableEq, Repr

/-- Refusals of the model. -/
inductive Refusal where
  /-- An instruction that has no meaning yet, by its mnemonic. Raised by no arm of this model. Safe. -/
  | notModelled (mnemonic : String)
  /-- A writer word is presented while a `SWAP` pends: the port does not accept it and such a stream is no run of the hardware
  (R109, R31). Raised by the step, for words the writer issues. Safe (log 7). -/
  | portClosed
  /-- The configuration is not legal and the model says nothing of such a block (R10, R292). Raised by the step. Safe (log 15). -/
  | illegalConfiguration
  deriving DecidableEq, Repr

/-- The state after power-up or restart number `launch` with the given parameters and launch contents (R42, R290): every register, flag
and pin 0, the trace empty, no `SWAP` pending, nothing in progress, and nothing known of the environment yet. -/
def State.powerUp (c : Config) (launch : Nat) (init0 init1 : List Byte) : State :=
  { cfg := c, wrbuf := 0, selbufR := 0, actbuf := 0, plane := 0, mux := 0, ontime := 0,
    swaprdy := false, run := false, fault := false, fcause := 0, fplane := 0, fmux := 0, fbuf := 0,
    cmderr := false, swappend := false,
    mem := { launch := launch, init0 := init0, init1 := init1, cells0 := [], cells1 := [] },
    pins := { a := 0, sdo := false, lat := false, oe := false, pwrEn := false },
    trace := [], wq := [], scan := none, hold := false, oracle := [], draws := 0, inputs := [] }

/-- The machine right after reset (R42). The parameters without a default are those of the panel the spec works its examples on,
32 x 16 with RP = 8, binary, linear, not rotated (R13; log 2); both buffers' contents are free (R38; log 3). -/
def State.reset : State :=
  State.powerUp (Config.standard 32 16 8 .binary .linear false) 0 [] []

end Sys2Proof.Machine
end

