-- ==== Sys2Proof/Syntax.lean ====
section
/-! DEFINITION. The operations of the block, one constructor per row of the opcode map (30_encoding.md R99). -/

namespace Sys2Proof

/-- An operation with its operands (R98). Coordinates are held as 16 bits and read as two's complement numbers. -/
inductive Instr where
  /-- `NOP` (R200). -/
  | nop
  /-- `SETPX x, y, r, g, b` (R130). -/
  | setpx (x y : BitVec 16) (r g b : BitVec 8)
  /-- `SETPXB x, y, r, g, b, t` (R131). -/
  | setpxb (x y : BitVec 16) (r g b : BitVec 8) (t : BufNo)
  /-- `SELBUF which` (R151). -/
  | selbuf (which : BufNo)
  /-- `SWAP` (R153). -/
  | swap
  /-- `SETONT us` (R201). -/
  | setont (us : BitVec 16)
  /-- `POWER on` (R202). -/
  | power (on : BitVec 1)
  /-- `RDREG n` (R203). -/
  | rdreg (n : BitVec 3)
  /-- `TICK` (R175). -/
  | tick
  /-- `STEP` (R176). -/
  | step
  /-- `SCANSTEP buf, plane, mux, t` (R181). -/
  | scanstep (buf : BufNo) (plane : BitVec 3) (mux : BitVec 5) (t : BitVec 16)
  /-- `SWTMO` (R156). -/
  | swtmo
  deriving DecidableEq, Repr

/-- The mnemonic of R99. -/
def Instr.mnemonic : Instr → String
  | .nop => "NOP"
  | .setpx .. => "SETPX"
  | .setpxb .. => "SETPXB"
  | .selbuf _ => "SELBUF"
  | .swap => "SWAP"
  | .setont _ => "SETONT"
  | .power _ => "POWER"
  | .rdreg _ => "RDREG"
  | .tick => "TICK"
  | .step => "STEP"
  | .scanstep .. => "SCANSTEP"
  | .swtmo => "SWTMO"

/-- The agent that issues an operation (column "issued by" of R99). -/
inductive Issuer where
  | writer
  | timer
  deriving DecidableEq, Repr

/-- Who issues the operation (R8, R99): the timer issues `TICK`, `STEP` and `SWTMO`, the writer all others. -/
def Instr.issuer : Instr → Issuer
  | .nop => .writer
  | .setpx .. => .writer
  | .setpxb .. => .writer
  | .selbuf _ => .writer
  | .swap => .writer
  | .setont _ => .writer
  | .power _ => .writer
  | .rdreg _ => .writer
  | .tick => .timer
  | .step => .timer
  | .scanstep .. => .writer
  | .swtmo => .timer

end Sys2Proof
end

