-- ==== Sys2Proof/WellFormed.lean ====
section
/-! DEFINITION. The argument checks of 30_encoding.md R109: which legal words have arguments in range. -/

namespace Sys2Proof

/-- R109: a multiplexer address is in range when it is below `RP`. -/
def WellFormed.muxInRange (c : Config) (mux : BitVec 5) : Bool :=
  decide (mux.toNat < c.rp)

/-- R109, R203: the registers of the view that can be read are 0 to 6; register 7 is reserved (R34). -/
def WellFormed.regInRange (n : BitVec 3) : Bool :=
  decide (n.toNat ≤ 6)

/-- R109: the arguments of the operation are in range. Field widths bound every other operand, and pixel coordinates out of range
are no rejection (R109, R122). -/
def Instr.wellFormed (c : Config) : Instr → Bool
  | .nop => true
  | .setpx .. => true
  | .setpxb .. => true
  | .selbuf _ => true
  | .swap => true
  | .setont _ => true
  | .power _ => true
  | .rdreg n => WellFormed.regInRange n
  | .tick => true
  | .step => true
  | .scanstep _ _ mux _ => WellFormed.muxInRange c mux
  | .swtmo => true

end Sys2Proof
end

