-- ==== Sys2Proof/Machine/Geometry.lean ====
section
/-! DEFINITION. The derived constants of 00_scope.md R13, the legal configurations (R10 to R12, R292) and the extent of the buffers
(10_state.md R36, 20_memory.md R66, R67). -/

namespace Sys2Proof.Machine

/-- `RB = W / 8`, bytes per pixel row per channel per plane (R13). -/
def rowBytes (c : Config) : Nat := c.w / 8

/-- `SEC = H / RP`, rows driven together by one multiplexer address (R13). -/
def sectors (c : Config) : Nat := c.h / c.rp

/-- `PCB = SEC * RB` (R13). -/
def channelBytes (c : Config) : Nat := sectors c * rowBytes c

/-- `SRB = 3 * PCB`, the bytes of a slice (R13). -/
def sliceBytes (c : Config) : Nat := 3 * channelBytes c

/-- `BS = RP * SRB`, the bytes of a plane block (R13). -/
def planeBytes (c : Config) : Nat := c.rp * sliceBytes c

/-- `FB = 8 * BS`, the bytes of a buffer (R13, R36). -/
def frameBytes (c : Config) : Nat := colorDepth * planeBytes c

/-- The geometry is legal (R10). -/
def geometryLegal (c : Config) : Bool :=
  decide (8 ≤ c.w) && decide (c.w ≤ 32760) && decide (c.w % 8 = 0) &&
  decide (c.rp ≤ c.h) && decide (c.h ≤ 32767) && decide (c.h % c.rp = 0) &&
  (decide (c.rp = 4) || decide (c.rp = 8) || decide (c.rp = 16) || decide (c.rp = 32))

/-- A channel offset is a signed number of 8 bits (R11). -/
def offsetLegal (o : Int) : Bool := decide (-128 ≤ o) && decide (o ≤ 127)

/-- The encoder parameters are legal (R11). -/
def encoderLegal (c : Config) : Bool :=
  offsetLegal c.redOffset && offsetLegal c.greenOffset && offsetLegal c.blueOffset &&
  decide (c.gStagger ≤ 7) && decide (c.bStagger ≤ 7)

/-- The address lines can name every multiplexer address (R12). -/
def linesLegal (c : Config) : Bool :=
  decide (1 ≤ c.nAddr) && decide (c.nAddr ≤ 15) &&
  (match c.muxPattern with
   | .binary => decide (c.rp ≤ 2 ^ c.nAddr)
   | .straight => decide (c.rp ≤ c.nAddr))

/-- The configuration is one the spec defines the block for (R10 to R12, R292). -/
def configLegal (c : Config) : Bool := geometryLegal c && encoderLegal c && linesLegal c

/-- `rowOffset[y]`, the last byte of the slice of row `y`'s multiplexer address (R35). -/
def rowOffset (c : Config) (y : Nat) : Nat := (y % c.rp) * sliceBytes c + sliceBytes c - 1

/-- The first offset of the slice of a plane and a multiplexer address (R63, R66, R67). -/
def sliceBase (c : Config) (plane mux : Nat) : Nat := plane * planeBytes c + mux * sliceBytes c

/-- The offset exists in a buffer (R36, R72). -/
def offsetExists (c : Config) (off : Nat) : Bool := decide (off < frameBytes c)

/-- Every byte of the slice exists (R72). -/
def sliceExists (c : Config) (plane mux : Nat) : Bool := decide (sliceBase c plane mux + sliceBytes c ≤ frameBytes c)

/-- The width of a logical frame (R121). -/
def logicalWidth (c : Config) : Nat := if c.rotate then c.h else c.w

/-- The height of a logical frame (R121). -/
def logicalHeight (c : Config) : Nat := if c.rotate then c.w else c.h

end Sys2Proof.Machine
end

