-- ==== Sys2Proof/Machine/Ops.lean ====
section
/-! DEFINITION. The named operations over the buffers, the trace, the pins, the transport oracle and the port, and the taking of the one
exception (60_exceptions.md R256). -/

namespace Sys2Proof.Machine

/-- The launch parameter of a buffer (R38). -/
def Memory.init (m : Memory) (b : BufNo) : List Byte := if b = 0 then m.init0 else m.init1

/-- The listed cells of a buffer (R36). -/
def Memory.cells (m : Memory) (b : BufNo) : List Host.Cell := if b = 0 then m.cells0 else m.cells1

/-- The memory with the cells of one buffer replaced. -/
def Memory.setCells (m : Memory) (b : BufNo) (l : List Host.Cell) : Memory :=
  if b = 0 then { m with cells0 := l } else { m with cells1 := l }

/-- What an unlisted byte reads as: the launch parameter's byte, or a free value where it gives none (R38; log 3). -/
def Memory.unlisted (m : Memory) (b : BufNo) (a : Nat) : Byte :=
  (m.init b).getD a (Config.initByte m.launch b.toNat a)

/-- The byte a list of cells gives at an address, `d` where it lists none. -/
def readCells (d : Byte) (a : Nat) : List Host.Cell → Byte
  | [] => d
  | (a', v) :: l => if a = a' then v else readCells d a l

/-- The cells after the byte at `a` becomes `v`; `d` is what the byte reads as unlisted, and is not listed. -/
def writeCells (d : Byte) (a : Nat) (v : Byte) : List Host.Cell → List Host.Cell
  | [] => if v = d then [] else [(a, v)]
  | (a', v') :: l =>
    if a < a' then (if v = d then (a', v') :: l else (a, v) :: (a', v') :: l)
    else if a = a' then (if v = d then l else (a, v) :: l)
    else (a', v') :: writeCells d a v l

/-- `MemRead(b, a, 1)` (R16). -/
def Memory.read (m : Memory) (b : BufNo) (a : Nat) : Byte := readCells (m.unlisted b a) a (m.cells b)

/-- `MemWrite(b, a, 1, v)` (R16). -/
def Memory.write (m : Memory) (b : BufNo) (a : Nat) (v : Byte) : Memory :=
  m.setCells b (writeCells (m.unlisted b a) a v (m.cells b))

/-- The byte with bit `i` set or cleared (R16). -/
def setBitOf (v : Byte) (i : Nat) (on : Bool) : Byte :=
  if on then v ||| BitVec.twoPow 8 i else v &&& ~~~ (BitVec.twoPow 8 i)

/-- `SetBit(b, a, i, c)` (R16), one atomic read-modify-write (R65). -/
def Memory.setBit (m : Memory) (w : BitWrite) : Memory :=
  m.write w.buf w.off (setBitOf (m.read w.buf w.off) w.bit w.val)

/-- The writes in order (R126). -/
def Memory.setBits (m : Memory) (ws : List BitWrite) : Memory := ws.foldl Memory.setBit m

/-- The addresses of a list of cells rise strictly, all from `lo` upward, and no cell lists what it would read as unlisted. -/
def cellsCanonical (d : Nat → Byte) (lo : Nat) : List Host.Cell → Bool
  | [] => true
  | (a, v) :: l => decide (lo ≤ a) && v != d a && cellsCanonical d (a + 1) l

/-- The canonical form of the memory: equal contents over equal launch contents are equal data. -/
def Memory.wf (m : Memory) : Bool :=
  cellsCanonical (m.unlisted 0) 0 m.cells0 && cellsCanonical (m.unlisted 1) 0 m.cells1

/-- The level of the pins after an event (R40, R41): `A` and `PWR_EN` hold what they were driven to, `SDO` the last bit shifted out
(log 12), `LAT` and `OE` are low again. -/
def Pins.after (p : Pins) : Event → Pins
  | .addr v => { p with a := v }
  | .tx b => { p with sdo := b.getLsbD 0 }
  | .lat => { p with lat := false }
  | .oe _ => { p with oe := false }
  | .pwr l => { p with pwrEn := l }
  | .rsp _ => p

/-- `emit E` (R16): the event is appended to the trace and the pins take its final levels. -/
def State.emit (s : State) (e : Event) : State :=
  { s with trace := s.trace ++ [e], pins := s.pins.after e }

/-- `respond v` (R16): the value goes to the writer, recorded as an `RSP` event (R41). -/
def State.respond (s : State) (v : BitVec 32) : State := s.emit (.rsp v)

/-- The transport's answer to the scan step about to begin (R253). -/
def State.nextOutcome (s : State) : Transport := s.oracle.headD (Config.transport s.draws)

/-- The answer is used up: one draw per scan step begun (R253). -/
def State.drawn (s : State) : State := { s with oracle := s.oracle.tail, draws := s.draws + 1 }

/-- The cause codes of R254. -/
def causeTx : BitVec 3 := 1
/-- The cause codes of R254. -/
def causeLatch : BitVec 3 := 2
/-- The cause codes of R254. -/
def causeOe : BitVec 3 := 3

/-- TAKING THE EXCEPTION, `raise TransportFault(c)` in the scan step of the job (R256): `FAULT` and `FINFO` are written, `OE` goes low, the
job ends and nothing else changes. Nothing is vectored and no position is saved but `FINFO`. -/
def State.takeFault (s : State) (cause : BitVec 3) (j : ScanJob) : State :=
  { s with
    fault := true, fcause := cause, fplane := j.plane, fmux := j.mux, fbuf := j.buf,
    pins := { s.pins with oe := false }, scan := none }

/-- THE ONLY WAY OUT OF THE EXCEPTION is reset (R258, R290): every register, flag and pin takes its reset value, the buffers take new launch
contents, a pending `SWAP` is forgotten and the trace starts empty. The construction parameters stay; the environment's stream and
the transport's answers go on (log 14). -/
def State.restarted (s : State) (init0 init1 : List Byte) : State :=
  { State.powerUp s.cfg (s.mem.launch + 1) init0 init1 with
    inputs := s.inputs, oracle := s.oracle, draws := s.draws }

/-- The scanner's operation in progress becomes `x`. -/
def State.setScan (s : State) (x : Option ScanJob) : State := { s with scan := x }

/-- An illegal or rejected word: no effect but `CMDERR` (R30, R108, R109). -/
def State.commandError (s : State) : State := { s with cmderr := true }

/-- The port takes the first input, a word with the given `hold` (R96). -/
def State.accept (s : State) (hold : Bool) : State := { s with inputs := s.inputs.tail, hold := hold }

/-- The writer performs its next `n` owed writes (R74, R126). -/
def State.writes (s : State) (n : Nat) : State :=
  { s with mem := s.mem.setBits (s.wq.take n), wq := s.wq.drop n }

/-- The next `n` owed writes lie inside the buffers (R72). -/
def State.writesExist (s : State) (n : Nat) : Bool := (s.wq.take n).all fun w => offsetExists s.cfg w.off

/-- The writer performs its next `n` owed writes, or faults where one lies outside the buffers (R72; log 16). -/
def runWriter (n : Nat) (s : State) : Host.Outcome State Fault Refusal :=
  if s.writesExist n then .next (s.writes n) else .fault .writeOutsideBuffer

/-- The writer owes these writes now; it performs them at once unless the word is held (R74; log 6). -/
def startWriter (ws : List BitWrite) (s : State) : Host.Outcome State Fault Refusal :=
  if s.hold then .next { s with wq := s.wq ++ ws }
  else runWriter (s.wq ++ ws).length { s with wq := s.wq ++ ws }

end Sys2Proof.Machine
end

