-- ==== Sys2Proof/Machine/Operands.lean ====
section
/-! DEFINITION. Every operand form: the pixel transform, bounds, offsets, thresholds and bit index (40_pixel_encode.md R120 to R126) and the
address lines' code (30_encoding.md R91). -/

namespace Sys2Proof.Machine

/-- `Transform`: logical to panel coordinates (R121), on mathematical integers (R14). -/
def transform (c : Config) (x0 y0 : Int) : Int × Int :=
  if c.rotate then (c.w - 1 - y0, c.h - 1 - x0) else (c.w - 1 - x0, y0)

/-- The bounds check on panel coordinates (R122). -/
def inPanel (c : Config) (p : Int × Int) : Bool :=
  decide (0 ≤ p.1) && decide (p.1 < c.w) && decide (0 ≤ p.2) && decide (p.2 < c.h)

/-- The three colour channels (R68). -/
inductive Channel where
  | red
  | green
  | blue
  deriving DecidableEq, Repr

/-- The channel's number (R68). -/
def Channel.index : Channel → Nat
  | .red => 0
  | .green => 1
  | .blue => 2

/-- The byte of a pixel inside a plane block: `baseOffsetR`, `baseOffsetG`, `baseOffsetB` (R123). -/
def baseOffset (c : Config) (x2 y2 : Nat) : Channel → Nat
  | .red => rowOffset c y2 - x2 / 8 - (y2 / c.rp) * rowBytes c
  | .green => rowOffset c y2 - x2 / 8 - (y2 / c.rp) * rowBytes c - channelBytes c
  | .blue => rowOffset c y2 - x2 / 8 - (y2 / c.rp) * rowBytes c - channelBytes c - channelBytes c

/-- `thr(p)` (R124). -/
def threshold (p : Nat) : Nat := p * 32 + 16

/-- The channel's offset, added to each threshold (R11, R124). -/
def channelOffset (c : Config) : Channel → Int
  | .red => c.redOffset
  | .green => c.greenOffset
  | .blue => c.blueOffset

/-- The buffer plane that holds threshold index `p` of the channel (R124, R70). -/
def planeOf (c : Config) (p : Nat) : Channel → Nat
  | .red => p
  | .green => (p + c.gStagger) % 8
  | .blue => (p + c.bStagger) % 8

/-- The threshold comparison (R124), signed and never modulo 256 (R129). -/
def planeBit (c : Config) (ch : Channel) (p v : Nat) : Bool :=
  decide ((v : Int) > (threshold p : Int) + channelOffset c ch)

/-- `MirroredRow` (R125). -/
def mirroredRow (c : Config) (y2 : Nat) : Bool :=
  match c.revnibHalf with
  | .low => decide (y2 % 8 < 4)
  | .high => decide (4 ≤ y2 % 8)

/-- The bit index is mirrored in this row (R125, R135). -/
def mirrored (c : Config) (y2 : Nat) : Bool :=
  match c.scanPattern with
  | .linear => false
  | .zigzag => false
  | .zigzagRevnibble => mirroredRow c y2

/-- The bit index of a pixel (R125). -/
def bitIndex (c : Config) (x2 y2 : Nat) : Nat :=
  if mirrored c y2 then 7 - x2 % 8 else x2 % 8

/-- The offset in the buffer of the byte that holds threshold index `p` of a pixel's channel (R124). -/
def pixelOffset (c : Config) (x2 y2 p : Nat) (ch : Channel) : Nat :=
  planeOf c p ch * planeBytes c + baseOffset c x2 y2 ch

/-- One of the 24 writes (R126). -/
def pixelWrite (c : Config) (tb : BufNo) (x2 y2 p : Nat) (ch : Channel) (v : Nat) : BitWrite :=
  { buf := tb, off := pixelOffset c x2 y2 p ch, bit := bitIndex c x2 y2, val := planeBit c ch p v }

/-- The 24 writes in order: the threshold index ascending and, within one, red, green, blue (R126). -/
def pixelWrites (c : Config) (tb : BufNo) (x2 y2 : Nat) (r g b : Nat) : List BitWrite :=
  (List.range colorDepth).flatMap fun p =>
    [pixelWrite c tb x2 y2 p .red r, pixelWrite c tb x2 y2 p .green g, pixelWrite c tb x2 y2 p .blue b]

/-- `setPixel` on buffer `tb` (R120): transform, bounds check, and the 24 writes or nothing (R122). -/
def writePixel (tb : BufNo) (x y : BitVec 16) (r g b : BitVec 8) (s : State) : Host.Outcome State Fault Refusal :=
  let p := transform s.cfg x.toInt y.toInt
  if inPanel s.cfg p then
    startWriter (pixelWrites s.cfg tb p.1.toNat p.2.toNat r.toNat g.toNat b.toNat) s
  else .next s

/-- `AddrCode(m)` (R91, R171): the lines' value, cut to `N_ADDR` lines. -/
def addrCode (c : Config) (m : BitVec 5) : BitVec 15 :=
  match c.muxPattern with
  | .binary => BitVec.ofNat 15 (m.toNat % 2 ^ c.nAddr)
  | .straight => BitVec.ofNat 15 (2 ^ m.toNat % 2 ^ c.nAddr)

/-- The offset of byte number `j` of a slice in transmission order (R63, R92). -/
def txOffset (c : Config) (plane mux j : Nat) : Nat :=
  match c.txOrder with
  | .descending => sliceBase c plane mux + sliceBytes c - 1 - j
  | .ascending => sliceBase c plane mux + j

end Sys2Proof.Machine
end

