-- ==== Sys2Proof/Machine/Flags.lean ====
section
/-! DEFINITION. Every flag computation and the register view: gating (42_scan.md R174), the swap handshake (41_buffer_control.md R150 to R156,
42_scan.md R178), the sequencer's position (R177) and the packing of the view (10_state.md R34). -/

namespace Sys2Proof.Machine

/-- `TICK` and `STEP` do nothing in this state (R174): the timer is stopped or a fault halts the scanner. -/
def State.scannerStopped (s : State) : Bool := !s.run || s.fault

/-- The sequencer is at the start of a refresh cycle (R176). -/
def State.atCycleStart (s : State) : Bool := s.plane == 0 && s.mux == 0

/-- `SWAPRDY` is cleared when the first scan step of a cycle begins (R26, R176). -/
def State.cycleStarted (s : State) : State :=
  if s.atCycleStart then { s with swaprdy := false } else s

/-- The grant of a `SWAP` (R153, R154): `SELBUF_R` is complemented and the writer gets `RSP(0)`. -/
def State.granted (s : State) : State := { s with selbufR := ~~~s.selbufR, swappend := false }.respond 0

/-- `CycleBoundary()` (R178): `ACTBUF` takes the old `SELBUF_R`, `SWAPRDY` is set, and then a pending `SWAP` is granted. -/
def State.cycleBoundary (s : State) : State :=
  if s.swappend then { s with actbuf := s.selbufR, swaprdy := true }.granted
  else { s with actbuf := s.selbufR, swaprdy := true }

/-- `Advance()` (R177): `MUX` counts fastest, `PLANE` next, and the wrap of both is the cycle boundary. -/
def State.advance (s : State) : State :=
  if s.mux.toNat < s.cfg.rp - 1 then { s with mux := s.mux + 1 }
  else if s.plane.toNat < 7 then { s with mux := 0, plane := s.plane + 1 }
  else { s with mux := 0, plane := 0 }.cycleBoundary

/-- One bit of a register. -/
def flagBit (b : Bool) : BitVec 32 := if b then 1 else 0

/-- `GEOM` (R34): `W` in bits 15:0, `H` in bits 31:16. -/
def viewGeom (c : Config) : BitVec 32 := BitVec.ofNat 32 (c.w % 2 ^ 16 + c.h % 2 ^ 16 * 2 ^ 16)

/-- The code of `MUX` in `CFG` (R34). -/
def muxCode : MuxPattern → Nat
  | .binary => 0
  | .straight => 1

/-- The code of `SCAN` in `CFG` (R34). -/
def scanCode : ScanPattern → Nat
  | .linear => 0
  | .zigzag => 1
  | .zigzagRevnibble => 2

/-- The code of `TX_ORDER` in `CFG` (R34). -/
def txCode : TxOrder → Nat
  | .descending => 0
  | .ascending => 1

/-- The code of `REVNIB_HALF` in `CFG` (R34). -/
def revnibCode : RevnibHalf → Nat
  | .low => 0
  | .high => 1

/-- `CFG` (R34): each field at its bit position. -/
def viewCfg (c : Config) : BitVec 32 :=
  BitVec.ofNat 32 (c.rp % 2 ^ 6 + muxCode c.muxPattern * 2 ^ 6 + scanCode c.scanPattern * 2 ^ 7 + c.rotate.toNat * 2 ^ 9 +
    txCode c.txOrder * 2 ^ 10 + revnibCode c.revnibHalf * 2 ^ 11 + c.nAddr % 2 ^ 4 * 2 ^ 12 +
    c.gStagger % 2 ^ 3 * 2 ^ 16 + c.bStagger % 2 ^ 3 * 2 ^ 19)

/-- `OFFS` (R34): the channel offsets as two's complement bytes. -/
def viewOffs (c : Config) : BitVec 32 :=
  BitVec.ofNat 32 ((BitVec.ofInt 8 c.redOffset).toNat + (BitVec.ofInt 8 c.greenOffset).toNat * 2 ^ 8 +
    (BitVec.ofInt 8 c.blueOffset).toNat * 2 ^ 16)

/-- `STATUS` (R34); bit 4 is reserved and reads 0, bit 7 is the copy of `RUN`. -/
def viewStatus (s : State) : BitVec 32 :=
  BitVec.ofNat 32 (s.wrbuf.toNat + s.selbufR.toNat * 2 + s.actbuf.toNat * 2 ^ 2 + s.swaprdy.toNat * 2 ^ 3 +
    s.fault.toNat * 2 ^ 5 + s.cmderr.toNat * 2 ^ 6 + s.run.toNat * 2 ^ 7 + s.plane.toNat * 2 ^ 8 + s.mux.toNat * 2 ^ 11)

/-- `FINFO` (R34). -/
def viewFinfo (s : State) : BitVec 32 :=
  BitVec.ofNat 32 (s.fcause.toNat + s.fplane.toNat * 2 ^ 3 + s.fmux.toNat * 2 ^ 6 + s.fbuf.toNat * 2 ^ 11)

/-- `View(n)` (R34, R203); register 7 is reserved and reads 0. -/
def view (s : State) (n : BitVec 3) : BitVec 32 :=
  match n.toNat with
  | 0 => viewGeom s.cfg
  | 1 => viewCfg s.cfg
  | 2 => viewOffs s.cfg
  | 3 => flagBit s.run
  | 4 => s.ontime.setWidth 32
  | 5 => viewStatus s
  | 6 => viewFinfo s
  | _ => 0

end Sys2Proof.Machine
end

