-- ==== Sys2Proof/Machine/Buffer.lean ====
section
/-! DEFINITION. The buffer control operations `SELBUF`, `SWAP` and `SWTMO` (41_buffer_control.md R151, R153, R156). -/

namespace Sys2Proof.Machine

/-- `SELBUF which` (R151): `WRBUF` only. -/
def execSelbuf (which : BufNo) (s : State) : Host.Outcome State Fault Refusal := .next { s with wrbuf := which }

/-- `SWAP` (R153): granted at once while `SWAPRDY = 1`, which stays 1 (R26); otherwise it pends. -/
def execSwap (s : State) : Host.Outcome State Fault Refusal :=
  if s.swaprdy then .next ({ s with selbufR := ~~~s.selbufR }.respond 0)
  else .next { s with swappend := true }

/-- `SWTMO` (R156): a pending `SWAP` ends without its grant and the writer gets `RSP(1)`; otherwise nothing (R109). -/
def execSwtmo (s : State) : Host.Outcome State Fault Refusal :=
  if s.swappend then .next ({ s with swappend := false }.respond 1) else .next s

end Sys2Proof.Machine
end

