-- ==== Sys2Proof/Machine/Pixel.lean ====
section
/-! DEFINITION. The pixel encode operations `SETPX` and `SETPXB` (40_pixel_encode.md R130, R131). -/

namespace Sys2Proof.Machine

/-- `SETPX x, y, r, g, b` (R130): one pixel of the buffer `WRBUF` names. -/
def execSetpx (x y : BitVec 16) (r g b : BitVec 8) (s : State) : Host.Outcome State Fault Refusal :=
  writePixel s.wrbuf x y r g b s

/-- `SETPXB x, y, r, g, b, t` (R131): one pixel of buffer `t`; `WRBUF` is neither read nor written. -/
def execSetpxb (x y : BitVec 16) (r g b : BitVec 8) (t : BufNo) (s : State) : Host.Outcome State Fault Refusal :=
  writePixel t x y r g b s

end Sys2Proof.Machine
end

