-- ==== Sys2Proof/Machine/Scan.lean ====
section
/-! DEFINITION. The scan operations `TICK`, `STEP` and `SCANSTEP` (42_scan.md R170 to R182). -/

namespace Sys2Proof.Machine

/-- How many actions a scan step has (R170): its begin, one per byte, the latch, output-enable. -/
def stepActions (c : Config) : Nat := sliceBytes c + 3

/-- How many actions the job still has to do: the rest of its step, of which output-enable is the last, and the steps after it. -/
def ScanJob.actionsLeft (c : Config) (j : ScanJob) : Nat :=
  (stepActions c - min j.pos (sliceBytes c + 2)) + j.more * stepActions c

/-- A scan step begins (R170): the outcome is drawn and the address lines are driven. -/
def beginStep (j : ScanJob) (s : State) : State :=
  (s.drawn.emit (.addr (addrCode s.cfg j.mux))).setScan (some { j with outcome := s.nextOutcome, pos := 1 })

/-- Action 0 of a step. For `SCANSTEP` the arguments are the job's own (R181); for `TICK` and `STEP` it is the head of `StepBody` (R176):
the gate of R174, which ends the job (R175, R202), the clearing of `SWAPRDY`, and the sequencer's position in the active buffer. -/
def scanBegin (j : ScanJob) (s : State) : State :=
  if j.direct then beginStep j s
  else if s.scannerStopped then s.setScan none
  else beginStep { j with buf := s.actbuf, plane := s.plane, mux := s.mux } s.cycleStarted

/-- Byte number `k` of the slice (R170): sent, or the transmission fails before it. -/
def scanByte (j : ScanJob) (k : Nat) (s : State) : State :=
  if j.outcome = .txfail k then s.takeFault causeTx j
  else
    (s.emit (.tx (s.mem.read j.buf (txOffset s.cfg j.plane.toNat j.mux.toNat k)))).setScan (some { j with pos := k + 2 })

/-- The latch pulse (R170, R93), or its failure. -/
def scanLatch (j : ScanJob) (s : State) : State :=
  if j.outcome = .latfail then s.takeFault causeLatch j
  else (s.emit .lat).setScan (some { j with pos := j.pos + 1 })

/-- What remains of the job when a step is complete (R175). -/
def ScanJob.next (j : ScanJob) : Option ScanJob :=
  match j.more with
  | 0 => none
  | n + 1 => if j.direct then none else some { j with pos := 0, more := n }

/-- The output-enable pulse (R170, R94), or its failure; then the step is complete and the sequencer of `TICK` and `STEP` advances (R177),
in one action with the completion (R178). -/
def scanEnable (j : ScanJob) (s : State) : State :=
  if j.outcome = .oefail then s.takeFault causeOe j
  else if j.direct then (s.emit (.oe j.t)).setScan j.next
  else (s.emit (.oe j.t)).advance.setScan j.next

/-- One action of the scanner's operation in progress (R170, R175). -/
def scanAction (s : State) : State :=
  match s.scan with
  | none => s
  | some j =>
    if j.pos = 0 then scanBegin j s
    else if j.pos ≤ sliceBytes s.cfg then scanByte j (j.pos - 1) s
    else if j.pos = sliceBytes s.cfg + 1 then scanLatch j s
    else scanEnable j s

/-- The scanner's next `n` actions. -/
def scanActions : Nat → State → State
  | 0, s => s
  | n + 1, s => scanActions n (scanAction s)

/-- Every byte the job reads exists (R72): its own slice, and for `TICK` and `STEP` the slice at the sequencer's position. -/
def ScanJob.readsExist (j : ScanJob) (s : State) : Bool :=
  sliceExists s.cfg j.plane.toNat j.mux.toNat && (j.direct || sliceExists s.cfg s.plane.toNat s.mux.toNat)

/-- The scanner performs its next `n` actions, or faults where its slice does not exist (R72; log 16). -/
def runScanner (n : Nat) (s : State) : Host.Outcome State Fault Refusal :=
  match s.scan with
  | none => .next s
  | some j => if j.readsExist s then .next (scanActions n s) else .fault .readOutsideBuffer

/-- The scanner's operation in progress runs to its end; none may be in progress when another begins (R261, R306; log 9). -/
def finishScanner (s : State) : Host.Outcome State Fault Refusal :=
  match s.scan with
  | none => .next s
  | some j => runScanner (j.actionsLeft s.cfg) s

/-- What follows once no scan job is in progress. -/
def afterScanner (k : State → Host.Outcome State Fault Refusal) (s : State) : Host.Outcome State Fault Refusal :=
  match finishScanner s with
  | .next s' => k s'
  | .fault r => .fault r
  | .refused r => .refused r

/-- A scan operation `k` behind its gate: where the gate is closed it is lost, whatever is in progress (R174, R261); else the operation in
progress runs to its end first (log 9), and `k` is lost too if that one faults (R257). -/
def gatedScan (closed : State → Bool) (k : State → Host.Outcome State Fault Refusal) (s : State) : Host.Outcome State Fault Refusal :=
  if closed s then .next s
  else afterScanner (fun s' => if closed s' then .next s' else k s') s

/-- A scan job starts, with none in progress; it runs to its end unless the word is held (R74, R175; log 6). -/
def startScanner (j : ScanJob) (s : State) : Host.Outcome State Fault Refusal :=
  if s.hold then .next (s.setScan (some j))
  else runScanner (j.actionsLeft s.cfg) (s.setScan (some j))

/-- The job of `n + 1` sequenced scan steps with one on-time (R175, R176). -/
def sequencedJob (s : State) (n : Nat) : ScanJob :=
  { direct := false, buf := s.actbuf, plane := s.plane, mux := s.mux, t := s.ontime, outcome := .ok, pos := 0, more := n }

/-- `n` sequenced scan steps with the `ONTIME` of now (R175). -/
def scanSteps (n : Nat) (s : State) : Host.Outcome State Fault Refusal :=
  match n with
  | 0 => .next s
  | k + 1 => startScanner (sequencedJob s k) s

/-- `STEP` (R176): one scan step, lost while `RUN = 0` or `FAULT = 1` (R174). -/
def execStep (s : State) : Host.Outcome State Fault Refusal := gatedScan State.scannerStopped (scanSteps 1) s

/-- `TICK` (R175): `STEPS_PER_TICK` scan steps, lost while `RUN = 0` or `FAULT = 1` (R174, R261). -/
def execTick (s : State) : Host.Outcome State Fault Refusal := gatedScan State.scannerStopped (scanSteps s.cfg.stepsPerTick) s

/-- The job of a `SCANSTEP` (R181). -/
def directJob (buf : BufNo) (plane : BitVec 3) (mux : BitVec 5) (t : BitVec 16) : ScanJob :=
  { direct := true, buf := buf, plane := plane, mux := mux, t := t, outcome := .ok, pos := 0, more := 0 }

/-- `SCANSTEP buf, plane, mux, t` (R181): rejected while the timer runs or with no such address (R109), also after a fault (log 11); else
nothing after a fault (R174). -/
def execScanstep (buf : BufNo) (plane : BitVec 3) (mux : BitVec 5) (t : BitVec 16) (s : State) : Host.Outcome State Fault Refusal :=
  if s.run || !WellFormed.muxInRange s.cfg mux then .next s.commandError
  else gatedScan State.fault (startScanner (directJob buf plane mux t)) s

end Sys2Proof.Machine
end

