-- ==== Sys2Proof/Machine/System.lean ====
section
/-! DEFINITION. The system operations `NOP`, `SETONT`, `POWER` and `RDREG` (43_system.md R200 to R203). -/

namespace Sys2Proof.Machine

/-- `NOP` (R200). -/
def execNop (s : State) : Host.Outcome State Fault Refusal := .next s

/-- `SETONT us` (R201): `ONTIME` only. -/
def execSetont (us : BitVec 16) (s : State) : Host.Outcome State Fault Refusal := .next { s with ontime := us }

/-- The job after `POWER 0`: a `TICK` between two scan steps ends, one inside a scan step has no steps after it (R202; log 10). -/
def ScanJob.powerOff (j : ScanJob) : Option ScanJob :=
  if j.pos = 0 ∧ j.direct = false then none else some { j with more := 0 }

/-- `POWER on` (R202): `RUN` and `PWR_EN`; all else is kept, but a `TICK` in progress loses its remaining steps when the timer stops. -/
def execPower (on : BitVec 1) (s : State) : Host.Outcome State Fault Refusal :=
  if on = 1 then .next ({ s with run := true }.emit (.pwr true))
  else .next ({ s with run := false, scan := s.scan.bind ScanJob.powerOff }.emit (.pwr false))

/-- `RDREG n` (R203): the response is register `n` of the view; register 7 is rejected and responds 0 (R109). -/
def execRdreg (n : BitVec 3) (s : State) : Host.Outcome State Fault Refusal :=
  if WellFormed.regInRange n then .next (s.respond (view s n)) else .next (s.commandError.respond 0)

end Sys2Proof.Machine
end

