-- ==== Sys2Proof/Machine/Dispatch.lean ====
section
/-! DEFINITION. One arm per operation. -/

namespace Sys2Proof.Machine

def exec (i : Instr) (s : State) : Host.Outcome State Fault Refusal :=
  match i with
  | .nop => Sys2Proof.Machine.execNop s
  | .setpx x y r g b => Sys2Proof.Machine.execSetpx x y r g b s
  | .setpxb x y r g b t => Sys2Proof.Machine.execSetpxb x y r g b t s
  | .selbuf which => Sys2Proof.Machine.execSelbuf which s
  | .swap => Sys2Proof.Machine.execSwap s
  | .setont us => Sys2Proof.Machine.execSetont us s
  | .power on => Sys2Proof.Machine.execPower on s
  | .rdreg n => Sys2Proof.Machine.execRdreg n s
  | .tick => Sys2Proof.Machine.execTick s
  | .step => Sys2Proof.Machine.execStep s
  | .scanstep buf plane mux t => Sys2Proof.Machine.execScanstep buf plane mux t s
  | .swtmo => Sys2Proof.Machine.execSwtmo s

end Sys2Proof.Machine
end

