-- ==== Sys2Proof/Decode.lean ====
section
/-! DEFINITION. The command word (30_encoding.md R96 to R99, R108): the decoder, total on 64-bit words, which rejects illegal words by name,
and the encoder. -/

namespace Sys2Proof

/-- Why a word is illegal (R108). -/
inductive Illegal where
  /-- The opcode is 0xC to 0xF. -/
  | reservedOpcode
  /-- A bit that the format of this mnemonic marks `0` is 1. -/
  | zeroFieldSet (mnemonic : String)
  deriving DecidableEq, Repr

/-- The `len` bits of the word from bit `lo` upward (R15). -/
def bits (w : Word) (lo len : Nat) : BitVec len := w.extractLsb' lo len

/-- The opcode, bits 63:60 (R96). -/
def opcode (w : Word) : BitVec 4 := bits w 60 4

/-- The instruction if the format's zero field holds, else the illegal word's name (R97, R108). -/
def ifZero (zero : Bool) (i : Instr) : Except Illegal Instr :=
  if zero then .ok i else .error (.zeroFieldSet i.mnemonic)

/-- Format Z (R97): bits 59:0 are zero. -/
def zeroZ (w : Word) : Bool := bits w 0 60 == 0

/-- Format P (R97): bit 59 and bits 57:56 are zero. -/
def zeroP (w : Word) : Bool := bits w 59 1 == 0 && bits w 56 2 == 0

/-- Format I (R97): bits 59:16 are zero, and the bits of `imm` from `n` upward are zero (R98, R99). -/
def zeroI (w : Word) (n : Nat) : Bool := bits w 16 44 == 0 && bits w n (16 - n) == 0

/-- Format S (R97): bits 59:25 are zero. -/
def zeroS (w : Word) : Bool := bits w 25 35 == 0

/-- The decoder (R97 to R99, R108). -/
def decode (w : Word) : Except Illegal Instr :=
  match (opcode w).toNat with
  | 0x0 => ifZero (zeroZ w) .nop
  | 0x1 => ifZero (zeroP w && bits w 58 1 == 0) (.setpx (bits w 40 16) (bits w 24 16) (bits w 16 8) (bits w 8 8) (bits w 0 8))
  | 0x2 => ifZero (zeroP w) (.setpxb (bits w 40 16) (bits w 24 16) (bits w 16 8) (bits w 8 8) (bits w 0 8) (bits w 58 1))
  | 0x3 => ifZero (zeroI w 1) (.selbuf (bits w 0 1))
  | 0x4 => ifZero (zeroZ w) .swap
  | 0x5 => ifZero (zeroI w 16) (.setont (bits w 0 16))
  | 0x6 => ifZero (zeroI w 1) (.power (bits w 0 1))
  | 0x7 => ifZero (zeroI w 3) (.rdreg (bits w 0 3))
  | 0x8 => ifZero (zeroZ w) .tick
  | 0x9 => ifZero (zeroZ w) .step
  | 0xA => ifZero (zeroS w) (.scanstep (bits w 24 1) (bits w 21 3) (bits w 16 5) (bits w 0 16))
  | 0xB => ifZero (zeroZ w) .swtmo
  | _ => .error .reservedOpcode

/-- The instruction that the decoder reads from an opcode-table word: the block's word is 64 bits (R96), so the word is `w` with zeros
above `nbits`. -/
def decodeTableWord (nbits w : Nat) : Option Instr :=
  if w < 2 ^ nbits ∧ w < 2 ^ 64 then (decode (BitVec.ofNat 64 w)).toOption else none

/-- A format P word (R97): the fields at their bit positions. -/
def wordP (op t : Nat) (x y : BitVec 16) (r g b : BitVec 8) : Word :=
  BitVec.ofNat 64 (op * 2 ^ 60 + t * 2 ^ 58 + x.toNat * 2 ^ 40 + y.toNat * 2 ^ 24 + r.toNat * 2 ^ 16 + g.toNat * 2 ^ 8 + b.toNat)

/-- A format I word (R97). -/
def wordI (op imm : Nat) : Word := BitVec.ofNat 64 (op * 2 ^ 60 + imm)

/-- A format Z word (R97). -/
def wordZ (op : Nat) : Word := BitVec.ofNat 64 (op * 2 ^ 60)

/-- A format S word (R97). -/
def wordS (op : Nat) (buf : BufNo) (plane : BitVec 3) (mux : BitVec 5) (t : BitVec 16) : Word :=
  BitVec.ofNat 64 (op * 2 ^ 60 + buf.toNat * 2 ^ 24 + plane.toNat * 2 ^ 21 + mux.toNat * 2 ^ 16 + t.toNat)

/-- The encoder (R97 to R99). -/
def encode : Instr → Word
  | .nop => wordZ 0x0
  | .setpx x y r g b => wordP 0x1 0 x y r g b
  | .setpxb x y r g b t => wordP 0x2 t.toNat x y r g b
  | .selbuf which => wordI 0x3 which.toNat
  | .swap => wordZ 0x4
  | .setont us => wordI 0x5 us.toNat
  | .power on => wordI 0x6 on.toNat
  | .rdreg n => wordI 0x7 n.toNat
  | .tick => wordZ 0x8
  | .step => wordZ 0x9
  | .scanstep buf plane mux t => wordS 0xA buf plane mux t
  | .swtmo => wordZ 0xB

/-- The opcode of an operation (column `op` of R99). -/
def Instr.op : Instr → BitVec 4
  | .nop => 0x0
  | .setpx .. => 0x1
  | .setpxb .. => 0x2
  | .selbuf _ => 0x3
  | .swap => 0x4
  | .setont _ => 0x5
  | .power _ => 0x6
  | .rdreg _ => 0x7
  | .tick => 0x8
  | .step => 0x9
  | .scanstep .. => 0xA
  | .swtmo => 0xB

/-- One row of the opcode map (R99): a word `w` is the operation of the row when `w &&& mask = match`. -/
structure OpRow where
  mnemonic : String
  mask : Word
  pattern : Word
  deriving DecidableEq, Repr

/-- The opcode map (R99), copied row by row. -/
def opcodeMap : List OpRow :=
  [ ⟨"NOP", 0xFFFFFFFFFFFFFFFF, 0x0000000000000000⟩,
    ⟨"SETPX", 0xFF00000000000000, 0x1000000000000000⟩,
    ⟨"SETPXB", 0xFB00000000000000, 0x2000000000000000⟩,
    ⟨"SELBUF", 0xFFFFFFFFFFFFFFFE, 0x3000000000000000⟩,
    ⟨"SWAP", 0xFFFFFFFFFFFFFFFF, 0x4000000000000000⟩,
    ⟨"SETONT", 0xFFFFFFFFFFFF0000, 0x5000000000000000⟩,
    ⟨"POWER", 0xFFFFFFFFFFFFFFFE, 0x6000000000000000⟩,
    ⟨"RDREG", 0xFFFFFFFFFFFFFFF8, 0x7000000000000000⟩,
    ⟨"TICK", 0xFFFFFFFFFFFFFFFF, 0x8000000000000000⟩,
    ⟨"STEP", 0xFFFFFFFFFFFFFFFF, 0x9000000000000000⟩,
    ⟨"SCANSTEP", 0xFFFFFFFFFE000000, 0xA000000000000000⟩,
    ⟨"SWTMO", 0xFFFFFFFFFFFFFFFF, 0xB000000000000000⟩ ]

/-- The word belongs to the row (R99). -/
def OpRow.covers (r : OpRow) (w : Word) : Bool := w &&& r.mask == r.pattern

end Sys2Proof
end

