-- ==== Sys2Proof/Machine/Port.lean ====
section
/-! DEFINITION. The command port (30_encoding.md R96, R108, R109): whether it accepts a word, and the inputs that are no words. -/

namespace Sys2Proof.Machine

/-- What the port does with a word presented to it. -/
inductive PortAnswer where
  /-- The word is accepted. -/
  | accept
  /-- The writer's previous operation is not complete; it completes first and the word waits (R96, R75). -/
  | finishWriter
  /-- A `SWAP` pends: no such stream is a run of the hardware (R109, R31). -/
  | closed
  deriving DecidableEq, Repr

/-- The writer's `SCANSTEP` is still in progress. -/
def State.directInProgress (s : State) : Bool :=
  match s.scan with
  | none => false
  | some j => j.direct

/-- The writer's previous operation is not complete (R96). -/
def State.writerBusy (s : State) : Bool := !s.wq.isEmpty || s.directInProgress

/-- The issuer of a word; a timer stimulus is a pulse, so an illegal word can only be the writer's (R96, R108; log 7). -/
def wordIssuer (w : Word) : Issuer :=
  match decode w with
  | .ok i => i.issuer
  | .error _ => .writer

/-- The port's answer (R96, R109): timer stimuli always arrive; a writer word waits for the previous one. -/
def portAnswer (w : Word) (s : State) : PortAnswer :=
  match wordIssuer w with
  | .timer => .accept
  | .writer => if s.swappend then .closed else if s.writerBusy then .finishWriter else .accept

/-- The writer's operation in progress runs to its end: its owed writes, or its `SCANSTEP`. -/
def finishWriter (s : State) : Host.Outcome State Fault Refusal :=
  if s.wq.isEmpty then finishScanner s else runWriter s.wq.length s

/-- The effect of an illegal word, consumed with `CMDERR` and nothing else (R108). -/
def illegalWord (s : State) : Host.Outcome State Fault Refusal := .next s.commandError

/-- The input is taken from the stream. -/
def State.consumed (s : State) : State := { s with inputs := s.inputs.tail }

/-- An input that is no word: an agent's turn (R74) or a restart (R290). -/
def otherInput (e : Input) (s : State) : Host.Outcome State Fault Refusal :=
  match e with
  | .word _ _ => .next s
  | .writerTurn n => runWriter n s.consumed
  | .scannerTurn n => runScanner n s.consumed
  | .restart init0 init1 => .next (s.consumed.restarted init0 init1)

/-- The stream with one word put in front, to be run to its end: where `step` takes its next instruction from (R96). -/
def State.present (s : State) (w : Word) : State := { s with inputs := .word w false :: s.inputs }

end Sys2Proof.Machine
end

