-- ==== Sys2Proof/Machine/Step.lean ====
section
/-! DEFINITION. One step of the block: the next input of the merged sequence (30_encoding.md R96). -/

namespace Sys2Proof.Machine

/-- A word at the port: the decoded instruction runs, an illegal word sets `CMDERR`, and a writer word waits or is refused as the port
says (R96, R108, R109). -/
def stepWord (w : Word) (hold : Bool) (s : State) : Host.Outcome State Fault Refusal :=
  match portAnswer w s with
  | .closed => .refused .portClosed
  | .finishWriter => finishWriter s
  | .accept =>
    match decode w with
    | .ok i => exec i (s.accept hold)
    | .error _ => illegalWord (s.accept hold)

/-- One step. With no input nothing happens: the block acts only on operations and stimuli (R2, R291). A configuration that cannot be
constructed is refused (R10, R292). -/
def step (s : State) : Host.Outcome State Fault Refusal :=
  if configLegal s.cfg then
    match s.inputs with
    | [] => .next s
    | .word w hold :: _ => stepWord w hold s
    | .writerTurn n :: _ => otherInput (.writerTurn n) s
    | .scannerTurn n :: _ => otherInput (.scannerTurn n) s
    | .restart init0 init1 :: _ => otherInput (.restart init0 init1) s
  else .refused .illegalConfiguration

/-- The state with an opcode-table word as the next input; the block's words are 64 bits (R96), the bits above `nbits` being 0. -/
def State.withFetchWord (s : State) (nbits w : Nat) : State := s.present (BitVec.ofNat 64 (w % 2 ^ nbits))

end Sys2Proof.Machine
end

