-- ==== Sys2Proof/Machine/Pseudo.lean ====
section
/-! DEFINITION. The pseudo-operations of 30_encoding.md R111 as sequences of operations, and the running of such a sequence. -/

namespace Sys2Proof.Machine

/-- The operations one after another, each complete before the next (R307). -/
def execAll : List Instr → State → Host.Outcome State Fault Refusal
  | [], s => .next s
  | i :: l, s =>
    match exec i s with
    | .next s' => execAll l s'
    | .fault r => .fault r
    | .refused r => .refused r

/-- `PLANEPASS buf, q, t` (R111). -/
def planePass (c : Config) (buf : BufNo) (q : BitVec 3) (t : BitVec 16) : List Instr :=
  (List.range c.rp).map fun m => .scanstep buf q (BitVec.ofNat 5 m) t

/-- `CYCLE buf, t` (R111). -/
def cycle (c : Config) (buf : BufNo) (t : BitVec 16) : List Instr :=
  (List.range colorDepth).flatMap fun q => planePass c buf (BitVec.ofNat 3 q) t

/-- The `SETPX` of a point whose coordinates the signed 16-bit operands hold (R98). For any other point no `SETPX` exists and R111 does not
say what `FILLRECT` does with it; it is dropped, as `setPixel` drops every point outside the frame (R122). DESIGN CHOICE (log 19). -/
def setpxAt (x y : Int) (r g b : BitVec 8) : List Instr :=
  if (BitVec.ofInt 16 x).toInt = x ∧ (BitVec.ofInt 16 y).toInt = y then [.setpx (BitVec.ofInt 16 x) (BitVec.ofInt 16 y) r g b] else []

/-- `FILLRECT x, y, w, h, r, g, b` (R111); R111 gives its operands no width, here they are mathematical numbers. DESIGN CHOICE (log 19). -/
def fillRect (x y : Int) (w h : Nat) (r g b : BitVec 8) : List Instr :=
  (List.range h).flatMap fun j => (List.range w).flatMap fun i => setpxAt (x + i) (y + j) r g b

/-- `FILL r, g, b` (R111): every pixel of the logical frame. -/
def fill (c : Config) (r g b : BitVec 8) : List Instr :=
  fillRect 0 0 (logicalWidth c) (logicalHeight c) r g b

end Sys2Proof.Machine
end

