-- ==== Sys2Proof/Machine/Reading.lean ====
section
/-! DEFINITION. Derived readings, which are no operations: a buffer read back into pixels (40_pixel_encode.md R128, R132), the layout and its
inverse (20_memory.md R68 to R70), and a trace read as light (42_scan.md R90, R179, R195, R196). -/

namespace Sys2Proof.Machine

/-- `n(v)`: how many thresholds lie below `v` (R128). -/
def level (v : Nat) : Nat := (List.range colorDepth).countP fun p => decide (v > threshold p)

/-- Buffer plane `q` has the pixel's bit of the channel set (R68, R125). -/
def pixelBit (c : Config) (m : Memory) (b : BufNo) (x2 y2 q : Nat) (ch : Channel) : Bool :=
  (m.read b (q * planeBytes c + baseOffset c x2 y2 ch)).getLsbD (bitIndex c x2 y2)

/-- How many of the channel's eight threshold bits are set (R132). -/
def channelCount (c : Config) (m : Memory) (b : BufNo) (x2 y2 : Nat) (ch : Channel) : Nat :=
  (List.range colorDepth).countP fun p => pixelBit c m b x2 y2 (planeOf c p ch) ch

/-- `Decode(b, x0, y0)` (R132): the three counts, and no value out of range. -/
def decodePixel (c : Config) (m : Memory) (b : BufNo) (x0 y0 : Int) : Option (Nat × Nat × Nat) :=
  let p := transform c x0 y0
  if inPanel c p then
    some (channelCount c m b p.1.toNat p.2.toNat .red, channelCount c m b p.1.toNat p.2.toNat .green,
      channelCount c m b p.1.toNat p.2.toNat .blue)
  else none

/-- In how many of the eight plane passes of a cycle the pixel's channel is lit (R195, R196). -/
def litPasses (c : Config) (m : Memory) (b : BufNo) (x2 y2 : Nat) (ch : Channel) : Nat :=
  (List.range colorDepth).countP fun q => pixelBit c m b x2 y2 q ch

/-- The threshold index that buffer plane `q` holds for the channel (R70). -/
def thresholdOf (c : Config) (q : Nat) : Channel → Nat
  | .red => q
  | .green => (q + 8 - c.gStagger) % 8
  | .blue => (q + 8 - c.bStagger) % 8

/-- The channel with a number (R69). -/
def channelOf : Nat → Channel
  | 0 => .red
  | 1 => .green
  | _ => .blue

/-- The inverse map of the layout (R69): the panel pixel and channel of bit `i` of relative offset `o`. -/
def pixelAt (c : Config) (o i : Nat) : Nat × Nat × Channel :=
  let k := sliceBytes c - 1 - o % sliceBytes c
  let y2 := (k % channelBytes c) / rowBytes c * c.rp + o / sliceBytes c
  let xb := (k % channelBytes c) % rowBytes c
  (8 * xb + (if mirrored c y2 then 7 - i else i), y2, channelOf (k / channelBytes c))

/-- The number, in transmission order, of the byte of a slice that holds a pixel's channel (R69, R92). -/
def wirePosition (c : Config) (x2 y2 : Nat) (ch : Channel) : Nat :=
  let k := ch.index * channelBytes c + (y2 / c.rp) * rowBytes c + x2 / 8
  match c.txOrder with
  | .descending => k
  | .ascending => sliceBytes c - 1 - k

/-- The bytes of a slice in transmission order (R92). -/
def wireBytes (c : Config) (m : Memory) (b : BufNo) (plane mux : Nat) : List Byte :=
  (List.range (sliceBytes c)).map fun j => m.read b (txOffset c plane mux j)

/-- The LED of a channel at a panel pixel is lit by a scan step of address `mux` that sent these bytes (R195). -/
def ledLit (c : Config) (bytes : List Byte) (mux x2 y2 : Nat) (ch : Channel) : Bool :=
  decide (y2 % c.rp = mux) && (bytes.getD (wirePosition c x2 y2 ch) 0).getLsbD (bitIndex c x2 y2)

/-- The events of a completed scan step (R90, R170). -/
def stepEvents (c : Config) (m : Memory) (b : BufNo) (plane : BitVec 3) (mux : BitVec 5) (t : BitVec 16) : List Event :=
  .addr (addrCode c mux) :: ((wireBytes c m b plane.toNat mux.toNat).map .tx ++ [.lat, .oe t])

/-- The events of a scan step that the transport lets down (R173): `k` bytes only, or all bytes and no latch, or no output-enable. -/
def failedEvents (c : Config) (m : Memory) (b : BufNo) (plane : BitVec 3) (mux : BitVec 5) : Transport → List Event
  | .ok => []
  | .txfail k => .addr (addrCode c mux) :: ((wireBytes c m b plane.toNat mux.toNat).take k).map .tx
  | .latfail => .addr (addrCode c mux) :: (wireBytes c m b plane.toNat mux.toNat).map .tx
  | .oefail => .addr (addrCode c mux) :: ((wireBytes c m b plane.toNat mux.toNat).map .tx ++ [.lat])

/-- The cause code of a failing answer (R254). -/
def causeOf : Transport → BitVec 3
  | .ok => 0
  | .txfail _ => causeTx
  | .latfail => causeLatch
  | .oefail => causeOe

/-- The answer is one that fails a scan step: `txfail(k)` has `k < SRB` (R253). -/
def failing (c : Config) : Transport → Bool
  | .ok => false
  | .txfail k => decide (k < sliceBytes c)
  | .latfail => true
  | .oefail => true

/-- The events of a plane pass: one scan step per multiplexer address, ascending (R19, R111). -/
def passEvents (c : Config) (m : Memory) (b : BufNo) (plane : Nat) (t : BitVec 16) : List Event :=
  (List.range c.rp).flatMap fun mx => stepEvents c m b (BitVec.ofNat 3 plane) (BitVec.ofNat 5 mx) t

/-- The events of a refresh cycle: eight plane passes, ascending (R179). -/
def cycleEvents (c : Config) (m : Memory) (b : BufNo) (t : BitVec 16) : List Event :=
  (List.range colorDepth).flatMap fun q => passEvents c m b q t

end Sys2Proof.Machine
end

