-- ==== Sys2Proof/Safety.lean ====
section
/-! DEFINITION. What counts as a safe run: the premises the spec's claims name (60_exceptions.md R259, 70_reset_and_hazards.md R300) and the
invariants that every step keeps. -/

namespace Sys2Proof.Machine

/-- The transport's answer to the `k`-th scan step begun from now on (R253). -/
def State.answer (s : State) (k : Nat) : Transport := (s.oracle.drop k).headD (Config.transport (s.draws + k))

/-- The premise "every outcome is `ok`" for the next `n` scan steps (R253, R259). -/
def State.AnswersOk (s : State) (n : Nat) : Prop := ∀ k, k < n → s.answer k = .ok

/-- No scan operation is in progress and the next one runs to its end (R175, R307). -/
def State.ScannerIdle (s : State) : Prop := s.scan = none ∧ s.hold = false

/-- No pixel operation is in progress and the next one runs to its end (R75 (c), R307). -/
def State.WriterIdle (s : State) : Prop := s.wq = [] ∧ s.hold = false

/-- The scanner runs: the configuration is legal, the position is, the timer is started and no fault was taken (R24, R174). -/
def State.Running (s : State) : Prop :=
  configLegal s.cfg = true ∧ s.mux.toNat < s.cfg.rp ∧ s.run = true ∧ s.fault = false

/-- Number of the sequencer's position in the order of a refresh cycle (R24, R179). -/
def State.position (s : State) : Nat := s.plane.toNat * s.cfg.rp + s.mux.toNat

/-- How many scan steps the cycle in progress still has, the one at the position included (R157). -/
def State.stepsLeft (s : State) : Nat := 8 * s.cfg.rp - s.position

/-- The position is one of the sequencer's (R24), in a legal configuration. -/
def State.PositionInv (s : State) : Prop := configLegal s.cfg = true ∧ s.mux.toNat < s.cfg.rp

/-- No `SWAP` pends while `SWAPRDY = 1` (R31, R153, R178). -/
def State.HandshakeInv (s : State) : Prop := ¬ (s.swaprdy = true ∧ s.swappend = true)

/-- `SWAPRDY` is 1 only between a cycle boundary and the next cycle's first scan step (R302). -/
def State.ReadyWindowInv (s : State) : Prop :=
  s.swaprdy = true → s.plane = 0 ∧ s.mux = 0 ∧ ∀ j, s.scan = some j → j.direct = false → j.pos = 0

/-- `FINFO` reads 0 while no fault was taken; after one it names a cause of R254 and an address that exists, and nothing is on the pins
any more (R28, R29, R256). -/
def State.FaultInv (s : State) : Prop :=
  s.PositionInv ∧ (∀ j, s.scan = some j → j.mux.toNat < s.cfg.rp) ∧
  (s.fault = false → s.fcause = 0 ∧ s.fplane = 0 ∧ s.fmux = 0 ∧ s.fbuf = 0) ∧
  (s.fault = true → s.scan = none ∧ s.fmux.toNat < s.cfg.rp ∧ (s.fcause = causeTx ∨ s.fcause = causeLatch ∨ s.fcause = causeOe))

/-- Between events the latch and output-enable are low (R40, R41) and `PWR_EN` follows `RUN` (R202, R275; D24). -/
def State.PinsInv (s : State) : Prop := s.pins.lat = false ∧ s.pins.oe = false ∧ s.pins.pwrEn = s.run

/-- The writer's duty for a tear-free picture (R300): no write it owes goes to the buffer on show, nor to the one about to be. -/
def State.TearFree (s : State) : Prop := ∀ w, w ∈ s.wq → w.buf ≠ s.actbuf ∧ w.buf ≠ s.selbufR

/-- The byte is one of the slice the job's scan step reads. -/
def ScanJob.Reads (c : Config) (j : ScanJob) (b : BufNo) (off : Nat) : Prop :=
  b = j.buf ∧ sliceBase c j.plane.toNat j.mux.toNat ≤ off ∧ off < sliceBase c j.plane.toNat j.mux.toNat + sliceBytes c

end Sys2Proof.Machine
end

