-- ==== Sys2Proof/Certificates/Slice0/Obligations.lean ====
section
/-! DEFINITION. The statements for the provers, from the numbered rules of spec/. -/

open Sys2Proof Sys2Proof.Machine

/-! Encoding (30_encoding.md R96 to R99, R108) -/

/-- R97 to R99: the decoder reads back every operation from its word, with every operand at every value. -/
def Obligations.DecodeOfEncodeIsTheInstruction : Prop := ∀ i : Instr, decode (encode i) = .ok i

/-- R97 to R99: a word that decodes to an operation is that operation's own word, so every legal word has one meaning. -/
def Obligations.DecodedWordIsItsEncoding : Prop := ∀ (w : Word) (i : Instr), decode w = .ok i → encode i = w

/-- R99: a word is the operation of a row of the opcode map exactly when its bits under the row's mask are the row's pattern. -/
def Obligations.WordsOfARowAreItsOperation : Prop :=
  ∀ r, r ∈ opcodeMap → ∀ w : Word, r.covers w = true ↔ ∃ i, decode w = .ok i ∧ i.mnemonic = r.mnemonic

/-- 95_test_vectors.md section 4: words written out there decode to the operations they stand for, and illegal ones to none. -/
def Obligations.WordsOfTheVectorsDecode : Prop :=
  decode 0x10001F000F0A141E = .ok (.setpx 31 15 10 20 30) ∧
  decode 0x10FFFF8000010203 = .ok (.setpx 0xFFFF 0x8000 1 2 3) ∧
  decode 0x24000A00144DC810 = .ok (.setpxb 10 20 77 200 16 1) ∧
  decode 0x3000000000000001 = .ok (.selbuf 1) ∧
  decode 0x5000000000000834 = .ok (.setont 2100) ∧
  decode 0x7000000000000005 = .ok (.rdreg 5) ∧
  decode 0xA000000001030064 = .ok (.scanstep 1 0 3 100) ∧
  decode 0xB000000000000000 = .ok .swtmo ∧
  decode 0x1400000000FF0000 = .error (.zeroFieldSet "SETPX") ∧
  decode 0xF000000000000001 = .error .reservedOpcode

/-- R108: a word is illegal when its opcode is 0xC to 0xF or a bit that its format marks 0 is 1, that is, when it is in no row of the opcode
map; it is consumed and changes nothing but `CMDERR` (where the port accepts a writer's word, R96, R109). -/
def Obligations.IllegalWordsOnlySetCommandError : Prop :=
  (∀ w : Word, (∃ e, decode w = .error e) ↔ ∀ r, r ∈ opcodeMap → r.covers w = false) ∧
  (∀ w : Word, 12 ≤ (opcode w).toNat → decode w = .error .reservedOpcode) ∧
  ∀ (s : State) (w : Word) (hold : Bool) (rest : List Input) (e : Illegal),
    configLegal s.cfg = true → s.inputs = .word w hold :: rest → decode w = .error e →
    s.swappend = false → s.writerBusy = false →
    Machine.step s = .next { s with inputs := rest, hold := hold, cmderr := true }

/-! The step (30_encoding.md R96, R109) -/

/-- R96: when the next input is a word that decodes to an operation and the port accepts it, the step consumes it and runs the operation. -/
def Obligations.StepRunsTheDecodedInstruction : Prop :=
  ∀ (s : State) (w : Word) (hold : Bool) (rest : List Input) (i : Instr),
    configLegal s.cfg = true → s.inputs = .word w hold :: rest → decode w = .ok i →
    (i.issuer = .timer ∨ (s.swappend = false ∧ s.writerBusy = false)) →
    Machine.step s = exec i { s with inputs := rest, hold := hold }

/-- R109, R31: a word of the writer presented while a `SWAP` pends is refused by the model. -/
def Obligations.WriterWordIsRefusedWhileASwapPends : Prop :=
  ∀ (s : State) (w : Word) (hold : Bool) (rest : List Input),
    configLegal s.cfg = true → s.inputs = .word w hold :: rest → s.swappend = true →
    (∀ i, decode w = .ok i → i.issuer = .writer) →
    Machine.step s = .refused .portClosed

/-- R96, R75 (c): a word of the writer waits while byte writes of the previous operation are owed; they are performed and the word stays. -/
def Obligations.WriterWordWaitsForThePixelInProgress : Prop :=
  ∀ (s : State) (w : Word) (hold : Bool) (rest : List Input),
    configLegal s.cfg = true → s.inputs = .word w hold :: rest → s.swappend = false →
    (∀ i, decode w = .ok i → i.issuer = .writer) →
    s.wq ≠ [] → (∀ x, x ∈ s.wq → x.off < frameBytes s.cfg) →
    Machine.step s = .next { s with mem := s.mem.setBits s.wq, wq := [] }

/-- R292 with R10 and R12: a configuration that violates them is refused. -/
def Obligations.IllegalConfigurationIsRefused : Prop :=
  (∀ s : State,
    ¬ (8 ≤ s.cfg.w ∧ s.cfg.w ≤ 32760 ∧ s.cfg.w % 8 = 0 ∧ (s.cfg.rp = 4 ∨ s.cfg.rp = 8 ∨ s.cfg.rp = 16 ∨ s.cfg.rp = 32) ∧
      s.cfg.rp ≤ s.cfg.h ∧ s.cfg.h ≤ 32767 ∧ s.cfg.h % s.cfg.rp = 0 ∧ 1 ≤ s.cfg.nAddr ∧ s.cfg.nAddr ≤ 15 ∧
      (s.cfg.muxPattern = .binary → s.cfg.rp ≤ 2 ^ s.cfg.nAddr) ∧ (s.cfg.muxPattern = .straight → s.cfg.rp ≤ s.cfg.nAddr)) →
    Machine.step s = .refused .illegalConfiguration) ∧
  configLegal (Config.standard 20 16 8 .binary .linear false) = false ∧
  configLegal (Config.standard 32 12 8 .binary .linear false) = false ∧
  configLegal (Config.standard 32 16 8 .straight .linear false) = false

/-! System operations (43_system.md) -/

/-- R200: the all-zero word is `NOP`, which changes nothing, emits nothing and answers nothing. -/
def Obligations.NopDoesNothing : Prop := decode 0 = .ok .nop ∧ ∀ s : State, exec .nop s = .next s

/-- R201: `SETONT us` writes `ONTIME` and nothing else. -/
def Obligations.SetontWritesOntime : Prop :=
  ∀ (us : BitVec 16) (s : State), exec (.setont us) s = .next { s with ontime := us }

/-- R202: `POWER` sets `RUN`, emits `PWR` and drives `PWR_EN`, and keeps everything else; after `POWER 0` a `TICK` in progress begins no
further scan step (log 10). -/
def Obligations.PowerStartsAndStopsTheTimer : Prop :=
  ∀ s : State,
    exec (.power 1) s = .next { s with run := true, trace := s.trace ++ [.pwr true], pins := { s.pins with pwrEn := true } } ∧
    exec (.power 0) s = .next { s with
      run := false, trace := s.trace ++ [.pwr false], pins := { s.pins with pwrEn := false },
      scan := s.scan.bind fun j => if j.pos = 0 ∧ j.direct = false then none else some { j with more := 0 } }

/-- R203: `RDREG n` with `n <= 6` answers register `n` of the view and changes nothing else; `RDREG 7` sets `CMDERR` and answers 0. -/
def Obligations.RdregAnswersTheView : Prop :=
  ∀ (n : BitVec 3) (s : State),
    decode (BitVec.ofNat 64 (0x7000000000000000 + n.toNat)) = .ok (.rdreg n) ∧
    (n.toNat ≤ 6 → exec (.rdreg n) s = .next { s with trace := s.trace ++ [.rsp (view s n)] }) ∧
    (n = 7 → exec (.rdreg n) s = .next { s with cmderr := true, trace := s.trace ++ [.rsp 0] })

/-- R34: the fields of the registers of the view, at their bits and in the codes of the table; unlisted bits read 0. -/
def Obligations.ViewHoldsTheFields : Prop :=
  ∀ s : State, configLegal s.cfg = true →
    ((view s 0).extractLsb' 0 16).toNat = s.cfg.w ∧ ((view s 0).extractLsb' 16 16).toNat = s.cfg.h ∧
    ((view s 1).extractLsb' 0 6).toNat = s.cfg.rp ∧
    (view s 1).extractLsb' 6 1 = (match s.cfg.muxPattern with | .binary => 0 | .straight => 1) ∧
    (view s 1).extractLsb' 7 2 = (match s.cfg.scanPattern with | .linear => 0 | .zigzag => 1 | .zigzagRevnibble => 2) ∧
    (view s 1).getLsbD 9 = s.cfg.rotate ∧
    (view s 1).extractLsb' 10 1 = (match s.cfg.txOrder with | .descending => 0 | .ascending => 1) ∧
    (view s 1).extractLsb' 11 1 = (match s.cfg.revnibHalf with | .low => 0 | .high => 1) ∧
    ((view s 1).extractLsb' 12 4).toNat = s.cfg.nAddr ∧ ((view s 1).extractLsb' 16 3).toNat = s.cfg.gStagger ∧
    ((view s 1).extractLsb' 19 3).toNat = s.cfg.bStagger ∧ (view s 1).extractLsb' 22 10 = 0 ∧
    ((view s 2).extractLsb' 0 8).toInt = s.cfg.redOffset ∧ ((view s 2).extractLsb' 8 8).toInt = s.cfg.greenOffset ∧
    ((view s 2).extractLsb' 16 8).toInt = s.cfg.blueOffset ∧ (view s 2).extractLsb' 24 8 = 0 ∧
    (view s 3).getLsbD 0 = s.run ∧ (view s 3).extractLsb' 1 31 = 0 ∧
    (view s 4).extractLsb' 0 16 = s.ontime ∧ (view s 4).extractLsb' 16 16 = 0 ∧
    (view s 5).extractLsb' 0 1 = s.wrbuf ∧ (view s 5).extractLsb' 1 1 = s.selbufR ∧ (view s 5).extractLsb' 2 1 = s.actbuf ∧
    (view s 5).getLsbD 3 = s.swaprdy ∧ (view s 5).getLsbD 4 = false ∧ (view s 5).getLsbD 5 = s.fault ∧
    (view s 5).getLsbD 6 = s.cmderr ∧ (view s 5).getLsbD 7 = s.run ∧ (view s 5).extractLsb' 8 3 = s.plane ∧
    (view s 5).extractLsb' 11 5 = s.mux ∧ (view s 5).extractLsb' 16 16 = 0 ∧
    (view s 6).extractLsb' 0 3 = s.fcause ∧ (view s 6).extractLsb' 3 3 = s.fplane ∧ (view s 6).extractLsb' 6 5 = s.fmux ∧
    (view s 6).extractLsb' 11 1 = s.fbuf ∧ (view s 6).extractLsb' 12 20 = 0 ∧ view s 7 = 0

/-! Buffer control (41_buffer_control.md) -/

/-- R151: `SELBUF which` writes `WRBUF` and nothing else, whatever `SWAPRDY` is. -/
def Obligations.SelbufChoosesTheWriteTarget : Prop :=
  ∀ (which : BufNo) (s : State),
    decode (BitVec.ofNat 64 (0x3000000000000000 + which.toNat)) = .ok (.selbuf which) ∧
    exec (.selbuf which) s = .next { s with wrbuf := which }

/-- R153: `SWAP` with `SWAPRDY = 1` complements `SELBUF_R` and answers 0; otherwise it pends; it changes nothing else. -/
def Obligations.SwapIsGrantedOrPends : Prop :=
  decode 0x4000000000000000 = .ok .swap ∧
  ∀ s : State,
    (s.swaprdy = true → exec .swap s = .next { s with selbufR := 1 - s.selbufR, trace := s.trace ++ [.rsp 0] }) ∧
    (s.swaprdy = false → exec .swap s = .next { s with swappend := true })

/-- R156: `SWTMO` ends a pending `SWAP` with the answer 1 and leaves `SELBUF_R`; with none pending it does nothing. -/
def Obligations.SwapTimeoutAnswersOne : Prop :=
  decode 0xB000000000000000 = .ok .swtmo ∧
  ∀ s : State,
    (s.swappend = true → exec .swtmo s = .next { s with swappend := false, trace := s.trace ++ [.rsp 1] }) ∧
    (s.swappend = false → exec .swtmo s = .next s)

/-- R152 (a), R23: only the completion of scan step `(7, RP-1)` changes `ACTBUF`, and then to `SELBUF_R`; no operation but `TICK` and `STEP`
changes it. -/
def Obligations.ActbufChangesOnlyAtACycleBoundary : Prop :=
  (∀ s : State, (scanAction s).actbuf ≠ s.actbuf →
    (scanAction s).actbuf = s.selbufR ∧ s.plane = 7 ∧ ¬ s.mux.toNat < s.cfg.rp - 1 ∧
    (scanAction s).plane = 0 ∧ (scanAction s).mux = 0 ∧ (scanAction s).swaprdy = true) ∧
  ∀ (i : Instr) (s t : State), s.scan = none → exec i s = .next t → t.actbuf ≠ s.actbuf → i = .tick ∨ i = .step

/-- R22, R152 (b): `SELBUF_R` changes only by the grant of a `SWAP`: at once with `SWAPRDY = 1`, or when a pending one ends at the completion
of scan step `(7, RP-1)`. The clauses are about one action of the scanner, one operation, and one step. -/
def Obligations.SelbufRChangesOnlyByAGrant : Prop :=
  (∀ s : State, (scanAction s).selbufR ≠ s.selbufR →
    (scanAction s).selbufR = 1 - s.selbufR ∧ s.swappend = true ∧ (scanAction s).swappend = false ∧
    s.plane = 7 ∧ ¬ s.mux.toNat < s.cfg.rp - 1 ∧ (scanAction s).plane = 0 ∧ (scanAction s).mux = 0 ∧ (scanAction s).swaprdy = true ∧
    ∃ j, s.scan = some j ∧ j.direct = false ∧ sliceBytes s.cfg + 1 < j.pos ∧ j.outcome ≠ .oefail) ∧
  (∀ (i : Instr) (s t : State), exec i s = .next t → t.selbufR ≠ s.selbufR →
    (i = .swap ∧ s.swaprdy = true) ∨
    (s.swappend = true ∧ t.swappend = false ∧ (i = .tick ∨ i = .step ∨ (i.mnemonic = "SCANSTEP" ∧ s.scan ≠ none)))) ∧
  ∀ s t : State, Machine.step s = .next t → (∀ i0 i1 rest, s.inputs ≠ .restart i0 i1 :: rest) → t.selbufR ≠ s.selbufR →
    (s.swaprdy = true ∧ ∃ w hold rest, s.inputs = .word w hold :: rest ∧ decode w = .ok .swap) ∨
    (s.swappend = true ∧ t.swappend = false)

/-! Scan operations (42_scan.md) -/

/-- R170, R176, R90: a `STEP` the transport does not let down emits `A`, the `SRB` bytes of the slice, `LAT` and `OE(ONTIME)`; at a cycle
boundary a pending `SWAP` is answered. The buffers and the writer's registers are as before. -/
def Obligations.StepEmitsOneScanStep : Prop :=
  ∀ s : State, s.Running → s.ScannerIdle → failing s.cfg (s.answer 0) = false →
    ∃ t, exec .step s = .next t ∧
      t.trace = s.trace ++ stepEvents s.cfg s.mem s.actbuf s.plane s.mux s.ontime ++
        (if s.plane = 7 ∧ s.mux.toNat = s.cfg.rp - 1 ∧ s.swappend = true then [.rsp 0] else []) ∧
      t.pins.a = addrCode s.cfg s.mux ∧ t.pins.lat = false ∧ t.pins.oe = false ∧ t.pins.pwrEn = s.pins.pwrEn ∧
      t.oracle = s.oracle.tail ∧ t.draws = s.draws + 1 ∧ t.ScannerIdle ∧
      t.cfg = s.cfg ∧ t.mem = s.mem ∧ t.wq = s.wq ∧ t.wrbuf = s.wrbuf ∧ t.ontime = s.ontime ∧ t.run = s.run ∧ t.fault = s.fault ∧
      t.fcause = s.fcause ∧ t.fplane = s.fplane ∧ t.fmux = s.fmux ∧ t.fbuf = s.fbuf ∧ t.cmderr = s.cmderr ∧ t.inputs = s.inputs

/-- R177: after a completed `STEP` the position is the next of the order, after a failed one it is unchanged, and `MUX` stays below `RP`. -/
def Obligations.StepAdvancesThePosition : Prop :=
  ∀ s : State, s.Running → s.ScannerIdle →
    ∃ t, exec .step s = .next t ∧ t.mux.toNat < s.cfg.rp ∧
      (failing s.cfg (s.answer 0) = false →
        (s.mux.toNat < s.cfg.rp - 1 → t.mux.toNat = s.mux.toNat + 1 ∧ t.plane = s.plane) ∧
        (s.mux.toNat = s.cfg.rp - 1 → t.mux = 0 ∧ t.plane.toNat = (s.plane.toNat + 1) % 8)) ∧
      (failing s.cfg (s.answer 0) = true → t.mux = s.mux ∧ t.plane = s.plane)

/-- R178: the completion of scan step `(7, RP-1)` copies the old `SELBUF_R` to `ACTBUF`, sets `SWAPRDY` and then grants a pending `SWAP`. -/
def Obligations.CycleBoundaryShowsAndGrants : Prop :=
  ∀ s : State, s.Running → s.ScannerIdle → failing s.cfg (s.answer 0) = false → s.plane = 7 → s.mux.toNat = s.cfg.rp - 1 →
    ∃ t, exec .step s = .next t ∧ t.actbuf = s.selbufR ∧ t.swaprdy = true ∧ t.swappend = false ∧
      (s.swappend = true → t.selbufR = 1 - s.selbufR ∧ ∃ es, t.trace = s.trace ++ es ++ [.rsp 0]) ∧
      (s.swappend = false → t.selbufR = s.selbufR)

/-- R26: a completed `STEP` clears `SWAPRDY` at position `(0, 0)`, sets it at a cycle boundary, and leaves it elsewhere; off the boundary the
rest of the handshake is as before. -/
def Obligations.StepDrivesSwapReady : Prop :=
  ∀ s : State, s.Running → s.ScannerIdle → failing s.cfg (s.answer 0) = false →
    ∃ t, exec .step s = .next t ∧
      (s.plane = 0 ∧ s.mux = 0 → t.swaprdy = false) ∧
      (s.plane = 7 ∧ s.mux.toNat = s.cfg.rp - 1 → t.swaprdy = true) ∧
      (¬ (s.plane = 0 ∧ s.mux = 0) → ¬ (s.plane = 7 ∧ s.mux.toNat = s.cfg.rp - 1) → t.swaprdy = s.swaprdy) ∧
      (¬ (s.plane = 7 ∧ s.mux.toNat = s.cfg.rp - 1) → t.actbuf = s.actbuf ∧ t.selbufR = s.selbufR ∧ t.swappend = s.swappend)

/-- R174, R261, R181: `TICK` and `STEP` do nothing at all while `RUN = 0` or `FAULT = 1`, also with a scan step still in progress, and a
`SCANSTEP` that is not rejected does nothing while `FAULT = 1`. -/
def Obligations.StoppedScannerDoesNothing : Prop :=
  ∀ s : State,
    (s.run = false ∨ s.fault = true → exec .tick s = .next s ∧ exec .step s = .next s) ∧
    ∀ (buf : BufNo) (plane : BitVec 3) (mux : BitVec 5) (t : BitVec 16),
      s.fault = true → s.run = false → mux.toNat < s.cfg.rp → exec (.scanstep buf plane mux t) s = .next s

/-- R256, R173, R254: a `STEP` the transport lets down takes `TransportFault`: `FAULT` and `FINFO` are written with the step's cause, plane,
address and buffer, the events up to the failure were emitted, `OE` is low, and the position, the handshake registers and the
buffers are kept; `SWAPRDY` is only cleared by the cycle start. -/
def Obligations.FailedStepTakesTheTransportFault : Prop :=
  ∀ s : State, s.Running → s.ScannerIdle → failing s.cfg (s.answer 0) = true →
    ∃ t, exec .step s = .next t ∧ t.fault = true ∧
      t.fcause = causeOf (s.answer 0) ∧ t.fplane = s.plane ∧ t.fmux = s.mux ∧ t.fbuf = s.actbuf ∧
      t.trace = s.trace ++ failedEvents s.cfg s.mem s.actbuf s.plane s.mux (s.answer 0) ∧ t.pins.oe = false ∧
      t.plane = s.plane ∧ t.mux = s.mux ∧ t.actbuf = s.actbuf ∧ t.selbufR = s.selbufR ∧ t.swappend = s.swappend ∧
      t.swaprdy = (if s.plane = 0 ∧ s.mux = 0 then false else s.swaprdy) ∧ t.scan = none ∧
      t.run = s.run ∧ t.wrbuf = s.wrbuf ∧ t.ontime = s.ontime ∧ t.cmderr = s.cmderr ∧ t.mem = s.mem ∧ t.pins.pwrEn = s.pins.pwrEn

/-- R175, R111: a `TICK` is `STEPS_PER_TICK` `STEP`s, whatever the transport answers and whether or not the scanner is stopped. -/
def Obligations.TickIsRepeatedStep : Prop :=
  ∀ s : State, s.PositionInv → s.ScannerIdle →
    ∃ t, exec .tick s = .next t ∧ execAll (List.replicate s.cfg.stepsPerTick .step) s = .next t

/-- R175: with the default `STEPS_PER_TICK = RP` and `MUX = 0` a `TICK` is one plane pass, after which `PLANE` has advanced by one. -/
def Obligations.TickIsOnePlanePass : Prop :=
  ∀ s : State, s.Running → s.ScannerIdle → s.AnswersOk s.cfg.rp → s.cfg.stepsPerTick = s.cfg.rp → s.mux = 0 →
    ∃ t, exec .tick s = .next t ∧
      t.trace = s.trace ++ passEvents s.cfg s.mem s.actbuf s.plane.toNat s.ontime ++
        (if s.plane = 7 ∧ s.swappend = true then [.rsp 0] else []) ∧
      t.mux = 0 ∧ t.plane.toNat = (s.plane.toNat + 1) % 8 ∧ t.mem = s.mem ∧ t.draws = s.draws + s.cfg.rp ∧ t.fault = false

/-- R175, R172: every output-enable pulse of a `TICK` has the duration `ONTIME` had when the `TICK` began: of one that runs at once, and of
one that goes on in the scanner's turns, whose job takes `ONTIME` when it starts and keeps it over every action and over every operation
of the writer between two of them, a `SETONT` among them. -/
def Obligations.TickUsesOneOnTime : Prop :=
  (∀ s t : State, s.scan = none → exec .tick s = .next t →
    ∃ es, t.trace = s.trace ++ es ∧ ∀ v, Event.oe v ∈ es → v = s.ontime) ∧
  (∀ s : State, s.scan = none → s.hold = true → s.run = true → s.fault = false → s.cfg.stepsPerTick ≠ 0 →
    ∃ t j, exec .tick s = .next t ∧ t.scan = some j ∧ j.direct = false ∧ j.t = s.ontime ∧ t.trace = s.trace) ∧
  (∀ (s : State) (j : ScanJob), s.scan = some j →
    (∃ es, (scanAction s).trace = s.trace ++ es ∧ ∀ v, Event.oe v ∈ es → v = j.t) ∧
    ∀ j', (scanAction s).scan = some j' → j'.t = j.t) ∧
  (∀ (us : BitVec 16) (s : State), ∃ t, exec (.setont us) s = .next t ∧ t.scan = s.scan ∧ t.ontime = us) ∧
  ∀ (i : Instr) (s t : State) (j' : ScanJob), i.issuer = .writer → i.mnemonic ≠ "SCANSTEP" → exec i s = .next t → t.scan = some j' →
    ∃ j, s.scan = some j ∧ j'.t = j.t

/-- R179: from position `(0, 0)`, `8 * RP` `STEP`s, or 8 `TICK`s of `RP` steps, perform the scan steps of all pairs in order, each once, on
one buffer, and end at `(0, 0)` with one cycle boundary. -/
def Obligations.CycleVisitsEveryPositionInOrder : Prop :=
  ∀ s : State, s.Running → s.ScannerIdle → s.AnswersOk (8 * s.cfg.rp) → s.plane = 0 → s.mux = 0 →
    ∃ t, execAll (List.replicate (8 * s.cfg.rp) .step) s = .next t ∧
      (s.cfg.stepsPerTick = s.cfg.rp → execAll (List.replicate 8 .tick) s = .next t) ∧
      t.trace = s.trace ++ cycleEvents s.cfg s.mem s.actbuf s.ontime ++ (if s.swappend = true then [.rsp 0] else []) ∧
      t.plane = 0 ∧ t.mux = 0 ∧ t.actbuf = s.selbufR ∧ t.swaprdy = true ∧ t.mem = s.mem ∧ t.fault = false

/-- R157, R158, R154: a `SWAP` that pends is granted at the boundary of the cycle in progress, up to which every scan step reads the old
buffer, and the new buffer is active from the next boundary on. -/
def Obligations.SwapShowsOneCycleAfterItsGrant : Prop :=
  ∀ s : State, s.Running → s.ScannerIdle → s.swappend = true → s.AnswersOk (s.stepsLeft + 8 * s.cfg.rp) →
    (∀ k, k < s.stepsLeft →
      ∃ u, execAll (List.replicate k .step) s = .next u ∧ u.actbuf = s.actbuf ∧ u.selbufR = s.selbufR ∧ u.swappend = true) ∧
    ∃ t, execAll (List.replicate s.stepsLeft .step) s = .next t ∧
      t.actbuf = s.selbufR ∧ t.selbufR = 1 - s.selbufR ∧ t.swappend = false ∧ t.plane = 0 ∧ t.mux = 0 ∧
      (∀ k, k < 8 * s.cfg.rp → ∃ u, execAll (List.replicate k .step) t = .next u ∧ u.actbuf = s.selbufR) ∧
      ∃ u, execAll (List.replicate (8 * s.cfg.rp) .step) t = .next u ∧ u.actbuf = 1 - s.selbufR

/-- R181: a `SCANSTEP` while stopped emits the scan step of its operands and changes no register. -/
def Obligations.ScanstepEmitsItsOwnStep : Prop :=
  ∀ (buf : BufNo) (plane : BitVec 3) (mux : BitVec 5) (ot : BitVec 16) (s : State),
    configLegal s.cfg = true → s.ScannerIdle → s.run = false → s.fault = false → mux.toNat < s.cfg.rp → failing s.cfg (s.answer 0) = false →
    ∃ p, exec (.scanstep buf plane mux ot) s = .next { s with
        trace := s.trace ++ stepEvents s.cfg s.mem buf plane mux ot, pins := p,
        oracle := s.oracle.tail, draws := s.draws + 1 } ∧
      p.a = addrCode s.cfg mux ∧ p.lat = false ∧ p.oe = false ∧ p.pwrEn = s.pins.pwrEn

/-- R181, R109, R306: a `SCANSTEP` while `RUN = 1` or with `mux >= RP` sets `CMDERR` and does nothing else. For `FAULT = 1` this is the model's
choice (log 11, DEDUCED): the text of R174 and R28 says that `SCANSTEP` does nothing then, the pseudocode of R181 sets `CMDERR` first. -/
def Obligations.ScanstepIsRejected : Prop :=
  ∀ (buf : BufNo) (plane : BitVec 3) (mux : BitVec 5) (ot : BitVec 16) (s : State),
    s.run = true ∨ s.cfg.rp ≤ mux.toNat → exec (.scanstep buf plane mux ot) s = .next { s with cmderr := true }

/-- R181, R254: a `SCANSTEP` the transport lets down records its own operands and leaves the sequencer and the handshake. -/
def Obligations.FailedScanstepRecordsItsOperands : Prop :=
  ∀ (buf : BufNo) (plane : BitVec 3) (mux : BitVec 5) (ot : BitVec 16) (s : State),
    configLegal s.cfg = true → s.ScannerIdle → s.run = false → s.fault = false → mux.toNat < s.cfg.rp →
    failing s.cfg (s.answer 0) = true →
    ∃ t, exec (.scanstep buf plane mux ot) s = .next t ∧ t.fault = true ∧
      t.fcause = causeOf (s.answer 0) ∧ t.fplane = plane ∧ t.fmux = mux ∧ t.fbuf = buf ∧
      t.trace = s.trace ++ failedEvents s.cfg s.mem buf plane mux (s.answer 0) ∧ t.pins.oe = false ∧ t.scan = none ∧
      t.plane = s.plane ∧ t.mux = s.mux ∧ t.actbuf = s.actbuf ∧ t.selbufR = s.selbufR ∧ t.swaprdy = s.swaprdy ∧
      t.swappend = s.swappend ∧ t.ontime = s.ontime ∧ t.mem = s.mem ∧ t.cmderr = s.cmderr

/-- R111, R19: `PLANEPASS` scans every multiplexer address of a plane in ascending order and moves no register: the trace, the pins and the
transport's answers apart, the state is as before. -/
def Obligations.PlanePassScansEveryAddress : Prop :=
  ∀ (buf : BufNo) (q : BitVec 3) (ot : BitVec 16) (s : State),
    configLegal s.cfg = true → s.ScannerIdle → s.run = false → s.fault = false → s.AnswersOk s.cfg.rp →
    ∃ p, execAll (planePass s.cfg buf q ot) s = .next { s with
        trace := s.trace ++ passEvents s.cfg s.mem buf q.toNat ot, pins := p,
        oracle := s.oracle.drop s.cfg.rp, draws := s.draws + s.cfg.rp } ∧
      p.a = addrCode s.cfg (BitVec.ofNat 5 (s.cfg.rp - 1)) ∧ p.lat = false ∧ p.oe = false ∧ p.pwrEn = s.pins.pwrEn

/-- R69, R195: on the wire a slice carries each pixel's bit of each channel in the byte whose number the layout gives, in both byte orders. -/
def Obligations.WireCarriesEachPixelInItsByte : Prop :=
  ∀ (c : Config) (m : Memory) (b : BufNo) (q x2 y2 : Nat) (ch : Channel),
    configLegal c = true → x2 < c.w → y2 < c.h →
    ledLit c (wireBytes c m b q (y2 % c.rp)) (y2 % c.rp) x2 y2 ch = pixelBit c m b x2 y2 q ch

/-! Pixel encode operations (40_pixel_encode.md) and the layout (20_memory.md) -/

/-- R122, R121: a pixel outside the logical frame is dropped: no memory access, no flag, no response, no error. -/
def Obligations.OutOfRangePixelIsDropped : Prop :=
  ∀ (x y : BitVec 16) (r g b : BitVec 8) (tb : BufNo) (s : State),
    ¬ (0 ≤ x.toInt ∧ x.toInt < (if s.cfg.rotate then (s.cfg.h : Int) else s.cfg.w) ∧
       0 ≤ y.toInt ∧ y.toInt < (if s.cfg.rotate then (s.cfg.w : Int) else s.cfg.h)) →
    exec (.setpx x y r g b) s = .next s ∧ exec (.setpxb x y r g b tb) s = .next s

/-- R130, R131, R120: a pixel in range is written to buffer `WRBUF`, or to the operand's buffer, by the 24 writes of R126, and nothing else
changes. -/
def Obligations.InRangePixelIsWritten : Prop :=
  ∀ (x y : BitVec 16) (r g b : BitVec 8) (tb : BufNo) (s : State),
    configLegal s.cfg = true → s.WriterIdle → inPanel s.cfg (transform s.cfg x.toInt y.toInt) = true →
    exec (.setpxb x y r g b tb) s = .next { s with
      mem := s.mem.setBits (pixelWrites s.cfg tb (transform s.cfg x.toInt y.toInt).1.toNat (transform s.cfg x.toInt y.toInt).2.toNat
        r.toNat g.toNat b.toNat) } ∧
    exec (.setpx x y r g b) s = .next { s with
      mem := s.mem.setBits (pixelWrites s.cfg s.wrbuf (transform s.cfg x.toInt y.toInt).1.toNat
        (transform s.cfg x.toInt y.toInt).2.toNat r.toNat g.toNat b.toNat) }

/-- R127: the offsets of an in-range pixel lie in their channels' sub-blocks, inside the plane block and the buffer, each channel visits each
plane once, and the 24 bits are pairwise different. -/
def Obligations.PixelOffsetsAreInRangeAndDistinct : Prop :=
  ∀ (c : Config) (tb : BufNo) (x2 y2 r g b : Nat), configLegal c = true → x2 < c.w → y2 < c.h →
    x2 / 8 + (y2 / c.rp) * rowBytes c ≤ channelBytes c - 1 ∧
    (y2 % c.rp * sliceBytes c + 2 * channelBytes c ≤ baseOffset c x2 y2 .red ∧
      baseOffset c x2 y2 .red ≤ y2 % c.rp * sliceBytes c + 3 * channelBytes c - 1) ∧
    (y2 % c.rp * sliceBytes c + channelBytes c ≤ baseOffset c x2 y2 .green ∧
      baseOffset c x2 y2 .green ≤ y2 % c.rp * sliceBytes c + 2 * channelBytes c - 1) ∧
    (y2 % c.rp * sliceBytes c ≤ baseOffset c x2 y2 .blue ∧
      baseOffset c x2 y2 .blue ≤ y2 % c.rp * sliceBytes c + channelBytes c - 1) ∧
    (∀ ch, baseOffset c x2 y2 ch < planeBytes c) ∧
    (∀ w, w ∈ pixelWrites c tb x2 y2 r g b → w.off < frameBytes c) ∧
    (∀ ch q, q < 8 → ∃ p, p < 8 ∧ planeOf c p ch = q ∧ ∀ p', p' < 8 → planeOf c p' ch = q → p' = p) ∧
    ((pixelWrites c tb x2 y2 r g b).map fun w => (w.off, w.bit)).Nodup

/-- R124, R126: after a pixel is written, each of its 24 bits is its threshold comparison, and every other bit of both buffers is as
before. -/
def Obligations.WrittenBitsAreTheComparisons : Prop :=
  ∀ (c : Config) (m : Memory) (tb : BufNo) (x2 y2 r g b : Nat),
    configLegal c = true → m.wf = true → x2 < c.w → y2 < c.h →
    (∀ p, p < 8 →
      pixelBit c (m.setBits (pixelWrites c tb x2 y2 r g b)) tb x2 y2 (planeOf c p .red) .red
        = decide ((r : Int) > p * 32 + 16 + c.redOffset) ∧
      pixelBit c (m.setBits (pixelWrites c tb x2 y2 r g b)) tb x2 y2 (planeOf c p .green) .green
        = decide ((g : Int) > p * 32 + 16 + c.greenOffset) ∧
      pixelBit c (m.setBits (pixelWrites c tb x2 y2 r g b)) tb x2 y2 (planeOf c p .blue) .blue
        = decide ((b : Int) > p * 32 + 16 + c.blueOffset)) ∧
    ∀ (b' : BufNo) (a i : Nat),
      (b' ≠ tb ∨ ∀ p ch, p < 8 → ¬ (a = pixelOffset c x2 y2 p ch ∧ i = bitIndex c x2 y2)) →
      ((m.setBits (pixelWrites c tb x2 y2 r g b)).read b' a).getLsbD i = (m.read b' a).getLsbD i

/-- R132, R128: with offsets 0, `Decode` after `SETPXB` gives the levels of the colour that was written. -/
def Obligations.DecodeAfterWriteGivesTheLevels : Prop :=
  ∀ (x y : BitVec 16) (r g b : BitVec 8) (tb : BufNo) (s : State),
    configLegal s.cfg = true → s.mem.wf = true → s.WriterIdle →
    s.cfg.redOffset = 0 → s.cfg.greenOffset = 0 → s.cfg.blueOffset = 0 →
    inPanel s.cfg (transform s.cfg x.toInt y.toInt) = true →
    ∃ t, exec (.setpxb x y r g b tb) s = .next t ∧
      decodePixel t.cfg t.mem tb x.toInt y.toInt = some (level r.toNat, level g.toNat, level b.toNat)

/-- R132: writing one pixel leaves `Decode` of every other pixel, and of every pixel of the other buffer, unchanged. -/
def Obligations.WritingAPixelLeavesTheOthers : Prop :=
  ∀ (x y : BitVec 16) (r g b : BitVec 8) (tb tb' : BufNo) (x' y' : Int) (s t : State),
    configLegal s.cfg = true → s.mem.wf = true → s.WriterIdle →
    exec (.setpxb x y r g b tb) s = .next t → (tb' ≠ tb ∨ x' ≠ x.toInt ∨ y' ≠ y.toInt) →
    decodePixel t.cfg t.mem tb' x' y' = decodePixel s.cfg s.mem tb' x' y'

/-- R65, R126: writing the same pixel with the same colour twice leaves the memory as writing it once. -/
def Obligations.WritingTwiceIsWritingOnce : Prop :=
  ∀ (c : Config) (m : Memory) (tb : BufNo) (x2 y2 r g b : Nat),
    configLegal c = true → m.wf = true → x2 < c.w → y2 < c.h →
    (m.setBits (pixelWrites c tb x2 y2 r g b)).setBits (pixelWrites c tb x2 y2 r g b)
      = m.setBits (pixelWrites c tb x2 y2 r g b)

/-- R128: the level of a value by ranges; with offset 0 the bits set of a value are exactly the indices below its level, and 32 times the
level is within 16 of the value. -/
def Obligations.LevelsAreAThermometerCode : Prop :=
  ∀ v, v ≤ 255 →
    (v ≤ 16 → level v = 0) ∧ (∀ k, k < 8 → 1 ≤ k → 32 * k - 15 ≤ v → v ≤ 32 * k + 16 → level v = k) ∧ (241 ≤ v → level v = 8) ∧
    (∀ p, p < 8 → (decide (v > threshold p) = decide (p < level v))) ∧
    v ≤ 32 * level v + 16 ∧ 32 * level v ≤ v + 16

/-- R196, R128: a pixel written with offsets 0 is lit, in each channel, in as many plane passes of a cycle as its level. -/
def Obligations.LightOfAPixelIsItsLevel : Prop :=
  ∀ (c : Config) (m : Memory) (tb : BufNo) (x2 y2 r g b : Nat),
    configLegal c = true → m.wf = true → x2 < c.w → y2 < c.h →
    c.redOffset = 0 → c.greenOffset = 0 → c.blueOffset = 0 →
    litPasses c (m.setBits (pixelWrites c tb x2 y2 r g b)) tb x2 y2 .red = level r ∧
    litPasses c (m.setBits (pixelWrites c tb x2 y2 r g b)) tb x2 y2 .green = level g ∧
    litPasses c (m.setBits (pixelWrites c tb x2 y2 r g b)) tb x2 y2 .blue = level b

/-- R69, R68: the layout is a bijection between the bits of a plane block and the pixels' channels. -/
def Obligations.LayoutIsABijection : Prop :=
  ∀ c : Config, configLegal c = true →
    (∀ x2 y2 ch, x2 < c.w → y2 < c.h →
      baseOffset c x2 y2 ch < planeBytes c ∧ bitIndex c x2 y2 < 8 ∧
      pixelAt c (baseOffset c x2 y2 ch) (bitIndex c x2 y2) = (x2, y2, ch)) ∧
    ∀ o i, o < planeBytes c → i < 8 →
      (pixelAt c o i).1 < c.w ∧ (pixelAt c o i).2.1 < c.h ∧
      baseOffset c (pixelAt c o i).1 (pixelAt c o i).2.1 (pixelAt c o i).2.2 = o ∧
      bitIndex c (pixelAt c o i).1 (pixelAt c o i).2.1 = i

/-- R70, R135: every buffer plane holds one threshold index of each channel, and `zigzag` writes what `linear` writes. -/
def Obligations.PlanesHoldTheirThresholds : Prop :=
  (∀ (c : Config) (q : Nat) (ch : Channel), configLegal c = true → q < 8 →
    thresholdOf c q ch < 8 ∧ planeOf c (thresholdOf c q ch) ch = q) ∧
  ∀ (c : Config) (tb : BufNo) (x2 y2 r g b : Nat),
    pixelWrites { c with scanPattern := .zigzag } tb x2 y2 r g b = pixelWrites { c with scanPattern := .linear } tb x2 y2 r g b

/-! Interleaving (20_memory.md R73, R74) -/

/-- R74: where the writes the writer owes touch no byte of the slice the scan step in progress reads, the writer's turn and the scanner's
turn within that step may come in either order. R300: in a state where the writer keeps to the tear-free rule, its turn and every
single action of the scanner on the active buffer may. -/
def Obligations.DisjointTurnsCommute : Prop :=
  (∀ (s : State) (j : ScanJob) (n k : Nat),
    s.scan = some j → j.pos ≠ 0 → k + j.pos ≤ stepActions s.cfg →
    (∀ w, w ∈ s.wq.take n → ¬ j.Reads s.cfg w.buf w.off) →
    scanActions k (s.writes n) = (scanActions k s).writes n) ∧
  ∀ (s : State) (n : Nat), s.TearFree → (∀ j, s.scan = some j → j.pos ≠ 0 → j.buf = s.actbuf) →
    scanAction (s.writes n) = (scanAction s).writes n

/-- R74, R126, R175, R176, R181: a `SETPX`, `SETPXB`, `TICK`, `STEP` or `SCANSTEP` that is held and resumed in two turns, cut anywhere, ends as
the one that runs at once. -/
def Obligations.HeldOperationsResumeToTheWhole : Prop :=
  (∀ (i : Instr) (s : State) (n : Nat), i.mnemonic = "SETPX" ∨ i.mnemonic = "SETPXB" → configLegal s.cfg = true → s.WriterIdle →
    ∃ u v t, exec i { s with hold := true } = .next u ∧ runWriter n u = .next v ∧
      runWriter v.wq.length v = .next { t with hold := true } ∧ exec i s = .next t) ∧
  ∀ (i : Instr) (s : State) (n : Nat), i.mnemonic = "TICK" ∨ i.mnemonic = "STEP" ∨ i.mnemonic = "SCANSTEP" →
    s.PositionInv → s.ScannerIdle →
    ∃ u v t, exec i { s with hold := true } = .next u ∧ runScanner n u = .next v ∧ finishScanner v = .next { t with hold := true } ∧
      exec i s = .next t

/-! Invariants that every step keeps -/

/-- R36, R73: every step keeps the canonical form of the two buffers. -/
def Obligations.StepKeepsTheBuffersCanonical : Prop :=
  ∀ s t : State, s.mem.wf = true → Machine.step s = .next t → t.mem.wf = true

/-- R24, R177: every step keeps the position one of the sequencer's, in a legal configuration. -/
def Obligations.StepKeepsThePosition : Prop :=
  ∀ s t : State, s.PositionInv → Machine.step s = .next t → t.PositionInv

/-- R31, R153, R154, R178: in every step it stays so that no `SWAP` pends while `SWAPRDY = 1`. -/
def Obligations.StepKeepsTheHandshake : Prop :=
  ∀ s t : State, s.HandshakeInv → Machine.step s = .next t → t.HandshakeInv

/-- R302, R26: in every step it stays so that `SWAPRDY` is 1 only from a cycle boundary until the first scan step of the next cycle. -/
def Obligations.StepKeepsTheReadyWindow : Prop :=
  ∀ s t : State, s.ReadyWindowInv → Machine.step s = .next t → t.ReadyWindowInv

/-- R28, R29, R254: in every step it stays so that `FINFO` is 0 without a fault and records a cause and an address that exist with one, and
that no scan step is in progress after a fault. -/
def Obligations.StepKeepsTheFaultRecord : Prop :=
  ∀ s t : State, s.FaultInv → Machine.step s = .next t → t.FaultInv

/-- R40, R41, R202, R275: in every step it stays so that `LAT` and `OE` are low between events and `PWR_EN` follows `RUN`. -/
def Obligations.StepKeepsThePins : Prop :=
  ∀ s t : State, s.PinsInv → Machine.step s = .next t → t.PinsInv

/-- R42, R38: the reset state meets every invariant, for this configuration and for every legal one with any launch contents. -/
def Obligations.ResetMeetsTheInvariants : Prop :=
  ∀ s : State,
    (s = State.reset ∨ ∃ c n i0 i1, configLegal c = true ∧ s = State.powerUp c n i0 i1) →
    s.mem.wf = true ∧ s.PositionInv ∧ s.HandshakeInv ∧ s.ReadyWindowInv ∧ s.FaultInv ∧ s.PinsInv ∧ s.ScannerIdle ∧ s.WriterIdle

/-- R42: after reset every register, flag and pin is 0, the trace is empty, and the configuration is the one given. -/
def Obligations.ResetClearsEverything : Prop :=
  ∀ (c : Config) (n : Nat) (i0 i1 : List Byte) (s : State), s = State.powerUp c n i0 i1 →
    s.wrbuf = 0 ∧ s.selbufR = 0 ∧ s.actbuf = 0 ∧ s.plane = 0 ∧ s.mux = 0 ∧ s.ontime = 0 ∧ s.swaprdy = false ∧ s.run = false ∧
    s.fault = false ∧ (s.fcause = 0 ∧ s.fplane = 0 ∧ s.fmux = 0 ∧ s.fbuf = 0) ∧ s.cmderr = false ∧ s.swappend = false ∧
    (s.pins.a = 0 ∧ s.pins.sdo = false ∧ s.pins.lat = false ∧ s.pins.oe = false ∧ s.pins.pwrEn = false) ∧
    s.trace = [] ∧ s.cfg = c ∧
    (∀ a, a < i0.length → s.mem.read 0 a = i0.getD a 0) ∧ (∀ a, a < i1.length → s.mem.read 1 a = i1.getD a 0)

/-- R290, R258: a restart gives the reset state of the same configuration with the new launch contents; a pending `SWAP` and a fault are
gone and nothing is answered. -/
def Obligations.RestartIsReset : Prop :=
  ∀ (s : State) (i0 i1 : List Byte) (rest : List Input),
    configLegal s.cfg = true → s.inputs = .restart i0 i1 :: rest →
    Machine.step s = .next { State.powerUp s.cfg (s.mem.launch + 1) i0 i1 with
      inputs := rest, oracle := s.oracle, draws := s.draws }

/-- R28, R29, R30, R258: `FAULT` and `CMDERR`, once set, stay set in every step but a restart, and `FINFO` then describes the first fault. -/
def Obligations.FaultAndCommandErrorAreSticky : Prop :=
  ∀ s t : State, s.FaultInv → Machine.step s = .next t → (∀ i0 i1 rest, s.inputs ≠ .restart i0 i1 :: rest) →
    (s.cmderr = true → t.cmderr = true) ∧
    (s.fault = true → t.fault = true ∧ t.fcause = s.fcause ∧ t.fplane = s.fplane ∧ t.fmux = s.fmux ∧ t.fbuf = s.fbuf ∧
      t.plane = s.plane ∧ t.mux = s.mux ∧ t.actbuf = s.actbuf)

/-- R10, R38, R41: no step changes the construction parameters; but for a restart, none changes the launch contents or takes an event out of
the trace. -/
def Obligations.ParametersNeverChangeAndTheTraceGrows : Prop :=
  ∀ s t : State, Machine.step s = .next t → t.cfg = s.cfg ∧
    ((∀ i0 i1 rest, s.inputs ≠ .restart i0 i1 :: rest) →
      t.mem.launch = s.mem.launch ∧ t.mem.init0 = s.mem.init0 ∧ t.mem.init1 = s.mem.init1 ∧ ∃ es, t.trace = s.trace ++ es)

/-- R270, R273, R36: each role keeps to its own state. The timer's operations and `SCANSTEP` change no buffer, no `WRBUF`, `ONTIME` or `RUN`;
the writer's, but for `SCANSTEP`, change no `PLANE`, `MUX`, `ACTBUF`, `SWAPRDY`, `FAULT` or `FINFO`. -/
def Obligations.RolesKeepToTheirState : Prop :=
  ∀ (i : Instr) (s t : State), exec i s = .next t →
    (i.issuer = .timer ∨ i.mnemonic = "SCANSTEP" → t.mem = s.mem ∧ t.wrbuf = s.wrbuf ∧ t.ontime = s.ontime ∧ t.run = s.run) ∧
    (i.issuer = .writer → i.mnemonic ≠ "SCANSTEP" →
      t.plane = s.plane ∧ t.mux = s.mux ∧ t.actbuf = s.actbuf ∧ t.swaprdy = s.swaprdy ∧ t.fault = s.fault ∧
      t.fcause = s.fcause ∧ t.fplane = s.fplane ∧ t.fmux = s.fmux ∧ t.fbuf = s.fbuf)
end

