-- ==== Sys2Proof/Laws/PerInstr.lean ====
section
/-! SUPPORT. For every operation: its encoded word carries its opcode in bits 63:60 (30_encoding.md R96, R99). -/

namespace Sys2Proof.Laws.EncodedOpcode

/-- The word of the operation carries the operation's opcode. -/
def Statement (i : Instr) : Prop := opcode (encode i) = i.op

theorem opcode_ofNat {n k : Nat} (h : n / 2 ^ 60 = k) : opcode (BitVec.ofNat 64 n) = BitVec.ofNat 4 k := by
  apply BitVec.eq_of_toNat_eq
  unfold opcode bits
  simp only [BitVec.extractLsb'_toNat, BitVec.toNat_ofNat, Nat.shiftRight_eq_div_pow]
  omega

theorem nop : Statement .nop := by unfold Statement; decide

theorem setpx (x y : BitVec 16) (r g b : BitVec 8) : Statement (.setpx x y r g b) := by
  have := x.isLt; have := y.isLt; have := r.isLt; have := g.isLt; have := b.isLt
  exact opcode_ofNat (k := 1) (by omega)

theorem setpxb (x y : BitVec 16) (r g b : BitVec 8) (t : BufNo) : Statement (.setpxb x y r g b t) := by
  have := x.isLt; have := y.isLt; have := r.isLt; have := g.isLt; have := b.isLt; have := t.isLt
  exact opcode_ofNat (k := 2) (by omega)

theorem selbuf (which : BufNo) : Statement (.selbuf which) := by
  have := which.isLt
  exact opcode_ofNat (k := 3) (by omega)

theorem swap : Statement .swap := by unfold Statement; decide

theorem setont (us : BitVec 16) : Statement (.setont us) := by
  have := us.isLt
  exact opcode_ofNat (k := 5) (by omega)

theorem power (on : BitVec 1) : Statement (.power on) := by
  have := on.isLt
  exact opcode_ofNat (k := 6) (by omega)

theorem rdreg (n : BitVec 3) : Statement (.rdreg n) := by
  have := n.isLt
  exact opcode_ofNat (k := 7) (by omega)

theorem tick : Statement .tick := by unfold Statement; decide

theorem step : Statement .step := by unfold Statement; decide

theorem scanstep (buf : BufNo) (plane : BitVec 3) (mux : BitVec 5) (t : BitVec 16) : Statement (.scanstep buf plane mux t) := by
  have := buf.isLt; have := plane.isLt; have := mux.isLt; have := t.isLt
  exact opcode_ofNat (k := 10) (by omega)

theorem swtmo : Statement .swtmo := by unfold Statement; decide

end Sys2Proof.Laws.EncodedOpcode
end

