-- ==== Sys2Proof/Laws/Decode.lean ====
section
/-! SUPPORT. The decoder opcode by opcode and the bit fields of a word (30_encoding.md R97 to R99). -/

namespace Sys2Proof

/-- A bit field of a number is its digits. -/
theorem toNat_bits_ofNat (n lo len : Nat) : (bits (BitVec.ofNat 64 n) lo len).toNat = n % 2 ^ 64 / 2 ^ lo % 2 ^ len := by
  simp [bits, BitVec.extractLsb'_toNat, Nat.shiftRight_eq_div_pow]

/-- A bit field is a value when the digits are. -/
theorem bits_ofNat_eq {n lo len : Nat} {v : BitVec len} (h : n % 2 ^ 64 / 2 ^ lo % 2 ^ len = v.toNat) :
    bits (BitVec.ofNat 64 n) lo len = v :=
  BitVec.eq_of_toNat_eq ((toNat_bits_ofNat n lo len).trans h)

/-- A bit field of a word, as a number. -/
theorem toNat_bits (w : Word) (lo len : Nat) : (bits w lo len).toNat = w.toNat / 2 ^ lo % 2 ^ len := by
  simp [bits, BitVec.extractLsb'_toNat, Nat.shiftRight_eq_div_pow]

theorem ifZero_eq_ok {zero : Bool} {i j : Instr} : ifZero zero i = .ok j ↔ zero = true ∧ i = j := by
  unfold ifZero
  split <;> simp_all

theorem decode_nop {w : Word} (h : opcode w = 0) :
    decode w = ifZero (zeroZ w) .nop := by
  unfold decode; rw [h]; rfl

theorem decode_setpx {w : Word} (h : opcode w = 1) :
    decode w = ifZero (zeroP w && bits w 58 1 == 0) (.setpx (bits w 40 16) (bits w 24 16) (bits w 16 8) (bits w 8 8) (bits w 0 8)) := by
  unfold decode; rw [h]; rfl

theorem decode_setpxb {w : Word} (h : opcode w = 2) :
    decode w = ifZero (zeroP w) (.setpxb (bits w 40 16) (bits w 24 16) (bits w 16 8) (bits w 8 8) (bits w 0 8) (bits w 58 1)) := by
  unfold decode; rw [h]; rfl

theorem decode_selbuf {w : Word} (h : opcode w = 3) :
    decode w = ifZero (zeroI w 1) (.selbuf (bits w 0 1)) := by
  unfold decode; rw [h]; rfl

theorem decode_swap {w : Word} (h : opcode w = 4) :
    decode w = ifZero (zeroZ w) .swap := by
  unfold decode; rw [h]; rfl

theorem decode_setont {w : Word} (h : opcode w = 5) :
    decode w = ifZero (zeroI w 16) (.setont (bits w 0 16)) := by
  unfold decode; rw [h]; rfl

theorem decode_power {w : Word} (h : opcode w = 6) :
    decode w = ifZero (zeroI w 1) (.power (bits w 0 1)) := by
  unfold decode; rw [h]; rfl

theorem decode_rdreg {w : Word} (h : opcode w = 7) :
    decode w = ifZero (zeroI w 3) (.rdreg (bits w 0 3)) := by
  unfold decode; rw [h]; rfl

theorem decode_tick {w : Word} (h : opcode w = 8) :
    decode w = ifZero (zeroZ w) .tick := by
  unfold decode; rw [h]; rfl

theorem decode_step {w : Word} (h : opcode w = 9) :
    decode w = ifZero (zeroZ w) .step := by
  unfold decode; rw [h]; rfl

theorem decode_scanstep {w : Word} (h : opcode w = 10) :
    decode w = ifZero (zeroS w) (.scanstep (bits w 24 1) (bits w 21 3) (bits w 16 5) (bits w 0 16)) := by
  unfold decode; rw [h]; rfl

theorem decode_swtmo {w : Word} (h : opcode w = 11) :
    decode w = ifZero (zeroZ w) .swtmo := by
  unfold decode; rw [h]; rfl

/-- The opcodes 0xC to 0xF are reserved (R99, R108). -/
theorem decode_reserved {w : Word} (h : 12 ≤ (opcode w).toNat) : decode w = .error .reservedOpcode := by
  have := (opcode w).isLt
  have e : (opcode w).toNat = 12 ∨ (opcode w).toNat = 13 ∨ (opcode w).toNat = 14 ∨ (opcode w).toNat = 15 := by omega
  unfold decode
  rcases e with e | e | e | e <;> rw [e] <;> rfl

end Sys2Proof
end

