-- ==== Sys2Proof/Laws/Geometry.lean ====
section
/-! SUPPORT. What a legal configuration gives: exact divisions, positive sizes, and slices inside the buffer (00_scope.md R10, R13, 20_memory.md R72). -/

namespace Sys2Proof.Machine

/-- The conditions of R10 to R12, one by one. -/
theorem configLegal_iff (c : Config) : configLegal c = true ↔
    (8 ≤ c.w ∧ c.w ≤ 32760 ∧ c.w % 8 = 0 ∧ c.rp ≤ c.h ∧ c.h ≤ 32767 ∧ c.h % c.rp = 0 ∧
      (c.rp = 4 ∨ c.rp = 8 ∨ c.rp = 16 ∨ c.rp = 32)) ∧
    ((-128 ≤ c.redOffset ∧ c.redOffset ≤ 127) ∧ (-128 ≤ c.greenOffset ∧ c.greenOffset ≤ 127) ∧
      (-128 ≤ c.blueOffset ∧ c.blueOffset ≤ 127) ∧ c.gStagger ≤ 7 ∧ c.bStagger ≤ 7) ∧
    linesLegal c = true := by
  simp only [configLegal, geometryLegal, encoderLegal, offsetLegal, Bool.and_eq_true, Bool.or_eq_true, decide_eq_true_eq]
  constructor <;> rintro h <;> simp_all [or_assoc]

section
variable {c : Config} (h : configLegal c = true)
include h

theorem legal_rp : c.rp = 4 ∨ c.rp = 8 ∨ c.rp = 16 ∨ c.rp = 32 := ((configLegal_iff c).mp h).1.2.2.2.2.2.2

theorem legal_rp_bounds : 4 ≤ c.rp ∧ c.rp ≤ 32 := by
  have := legal_rp h; omega

theorem legal_w : c.w = 8 * rowBytes c := by
  have := ((configLegal_iff c).mp h).1
  unfold rowBytes; omega

theorem legal_h : c.h = c.rp * sectors c := by
  have := ((configLegal_iff c).mp h).1
  unfold sectors
  exact (Nat.mul_div_cancel' (Nat.dvd_of_mod_eq_zero this.2.2.2.2.2.1)).symm

theorem legal_rowBytes_pos : 0 < rowBytes c := by
  have := ((configLegal_iff c).mp h).1
  unfold rowBytes; omega

theorem legal_sectors_pos : 0 < sectors c := by
  have := ((configLegal_iff c).mp h).1
  unfold sectors
  exact Nat.div_pos this.2.2.2.1 (by omega)

theorem legal_channelBytes_pos : 0 < channelBytes c :=
  Nat.mul_pos (legal_sectors_pos h) (legal_rowBytes_pos h)

theorem legal_sliceBytes_pos : 0 < sliceBytes c :=
  Nat.mul_pos (by decide) (legal_channelBytes_pos h)

theorem legal_staggers : c.gStagger ≤ 7 ∧ c.bStagger ≤ 7 := by
  have := ((configLegal_iff c).mp h).2.1; omega

end

/-- The slice of a plane and an address that exist lies inside the buffer (R72). -/
theorem sliceExists_of_lt {c : Config} {plane mux : Nat} (hp : plane < 8) (hm : mux < c.rp) : sliceExists c plane mux = true := by
  unfold sliceExists sliceBase frameBytes planeBytes colorDepth
  have h1 : (mux + 1) * sliceBytes c ≤ c.rp * sliceBytes c := Nat.mul_le_mul_right _ hm
  have h2 : (plane + 1) * (c.rp * sliceBytes c) ≤ 8 * (c.rp * sliceBytes c) := Nat.mul_le_mul_right _ hp
  simp only [decide_eq_true_eq]
  rw [Nat.add_mul] at h1 h2
  omega

/-- In transmission order every byte of a slice is one of its offsets (R63). -/
theorem txOffset_bounds {c : Config} {plane mux j : Nat} (hj : j < sliceBytes c) :
    sliceBase c plane mux ≤ txOffset c plane mux j ∧ txOffset c plane mux j < sliceBase c plane mux + sliceBytes c := by
  unfold txOffset
  split <;> omega

end Sys2Proof.Machine
end

