-- ==== Sys2Proof/Laws/Memory.lean ====
section
/-! SUPPORT. The laws of the buffers: a read after a write, what a write leaves alone, and the canonical form (10_state.md R36, 20_memory.md R73). -/

namespace Sys2Proof.Machine

theorem readCells_writeCells_ne (d d' : Byte) {a b : Nat} (h : b ≠ a) (v : Byte) (l : List Host.Cell) :
    readCells d' b (writeCells d a v l) = readCells d' b l := by
  induction l with
  | nil => unfold writeCells; split <;> simp [readCells, h]
  | cons c l ih =>
    obtain ⟨a', v'⟩ := c
    unfold writeCells
    split
    · split <;> simp [readCells, h]
    · split
      · rename_i _ e; subst e
        split <;> simp [readCells, h]
      · simp [readCells, ih]

theorem readCells_of_lt {d : Nat → Byte} (d' : Byte) {lo a : Nat} {l : List Host.Cell}
    (h : cellsCanonical d lo l = true) (ha : a < lo) : readCells d' a l = d' := by
  induction l generalizing lo with
  | nil => rfl
  | cons c l ih =>
    obtain ⟨a', v'⟩ := c
    simp only [cellsCanonical, Bool.and_eq_true, decide_eq_true_eq] at h
    have : a ≠ a' := by omega
    simp only [readCells, if_neg this]
    exact ih h.2 (by omega)

theorem readCells_writeCells_self {d : Nat → Byte} {lo a : Nat} (v : Byte) {l : List Host.Cell}
    (h : cellsCanonical d lo l = true) : readCells (d a) a (writeCells (d a) a v l) = v := by
  induction l generalizing lo with
  | nil => unfold writeCells; split <;> simp_all [readCells]
  | cons c l ih =>
    obtain ⟨a', v'⟩ := c
    have h' := h
    simp only [cellsCanonical, Bool.and_eq_true, decide_eq_true_eq] at h
    unfold writeCells
    split
    · rename_i hlt
      split
      · rename_i hv
        rw [hv]
        refine readCells_of_lt (lo := a') (d := d) _ ?_ hlt
        simp only [cellsCanonical, Bool.and_eq_true, decide_eq_true_eq]
        exact ⟨⟨Nat.le_refl _, h.1.2⟩, h.2⟩
      · simp [readCells]
    · split
      · rename_i _ e; subst e
        split
        · rename_i hv
          rw [hv]
          exact readCells_of_lt _ h.2 (by omega)
        · simp [readCells]
      · rename_i _ e
        simp only [readCells, if_neg e]
        exact ih h.2

theorem cellsCanonical_mono {d : Nat → Byte} {lo lo' : Nat} {l : List Host.Cell}
    (h : cellsCanonical d lo l = true) (hle : lo' ≤ lo) : cellsCanonical d lo' l = true := by
  cases l with
  | nil => rfl
  | cons c l =>
    obtain ⟨a', v'⟩ := c
    simp only [cellsCanonical, Bool.and_eq_true, decide_eq_true_eq] at h ⊢
    exact ⟨⟨by omega, h.1.2⟩, h.2⟩

theorem cellsCanonical_writeCells {d : Nat → Byte} {lo a : Nat} (v : Byte) {l : List Host.Cell}
    (h : cellsCanonical d lo l = true) (ha : lo ≤ a) : cellsCanonical d lo (writeCells (d a) a v l) = true := by
  induction l generalizing lo with
  | nil =>
    unfold writeCells
    split
    · rfl
    · simp_all [cellsCanonical]
  | cons c l ih =>
    obtain ⟨a', v'⟩ := c
    have h' := h
    simp only [cellsCanonical, Bool.and_eq_true, decide_eq_true_eq] at h
    unfold writeCells
    split
    · split
      · exact h'
      · rename_i hlt hv
        simp only [cellsCanonical, Bool.and_eq_true, decide_eq_true_eq, bne_iff_ne, ne_eq]
        exact ⟨⟨ha, hv⟩, ⟨by omega, by simpa using h.1.2⟩, h.2⟩
    · split
      · rename_i _ e; subst e
        split
        · exact cellsCanonical_mono h.2 (by omega)
        · rename_i hv
          simp only [cellsCanonical, Bool.and_eq_true, decide_eq_true_eq, bne_iff_ne, ne_eq]
          exact ⟨⟨ha, hv⟩, h.2⟩
      · rename_i hlt e
        simp only [cellsCanonical, Bool.and_eq_true, decide_eq_true_eq]
        exact ⟨h.1, ih h.2 (by omega)⟩

theorem BufNo.cases (b : BufNo) : b = 0 ∨ b = 1 := by
  revert b; decide

/-- A write leaves the launch contents alone, so every byte reads as before where it is unlisted. -/
@[simp] theorem Memory.unlisted_write (m : Memory) (b b' : BufNo) (a a' : Nat) (v : Byte) :
    (m.write b a v).unlisted b' a' = m.unlisted b' a' := by
  unfold Memory.write Memory.setCells
  split <;> rfl

theorem Memory.cells_write_same (m : Memory) (b : BufNo) (a : Nat) (v : Byte) :
    (m.write b a v).cells b = writeCells (m.unlisted b a) a v (m.cells b) := by
  unfold Memory.write Memory.setCells Memory.cells
  split <;> simp_all

theorem Memory.cells_write_other (m : Memory) {b b' : BufNo} (h : b' ≠ b) (a : Nat) (v : Byte) :
    (m.write b a v).cells b' = m.cells b' := by
  unfold Memory.write Memory.setCells Memory.cells
  rcases BufNo.cases b with rfl | rfl <;> rcases BufNo.cases b' with rfl | rfl <;> simp_all

/-- A write leaves every other byte alone. -/
theorem Memory.read_write_ne (m : Memory) {b b' : BufNo} {a a' : Nat} (h : ¬ (b' = b ∧ a' = a)) (v : Byte) :
    (m.write b a v).read b' a' = m.read b' a' := by
  unfold Memory.read
  rw [Memory.unlisted_write]
  by_cases hb : b' = b
  · subst hb
    rw [Memory.cells_write_same]
    exact readCells_writeCells_ne _ _ (fun e => h ⟨rfl, e⟩) v _
  · rw [Memory.cells_write_other m hb]

theorem Memory.wf_cells {m : Memory} (h : m.wf = true) (b : BufNo) : cellsCanonical (m.unlisted b) 0 (m.cells b) = true := by
  simp only [Memory.wf, Bool.and_eq_true] at h
  rcases BufNo.cases b with rfl | rfl
  · exact h.1
  · exact h.2

/-- A read after a write of the same byte gives the value written. -/
theorem Memory.read_write_same {m : Memory} (h : m.wf = true) (b : BufNo) (a : Nat) (v : Byte) :
    (m.write b a v).read b a = v := by
  unfold Memory.read
  rw [Memory.unlisted_write, Memory.cells_write_same]
  exact readCells_writeCells_self (d := m.unlisted b) v (m.wf_cells h b)

/-- A write keeps the canonical form. -/
theorem Memory.wf_write {m : Memory} (h : m.wf = true) (b : BufNo) (a : Nat) (v : Byte) : (m.write b a v).wf = true := by
  have h0 := m.wf_cells h 0
  have h1 := m.wf_cells h 1
  have e (b' : BufNo) : (m.write b a v).unlisted b' = m.unlisted b' := funext fun a' => Memory.unlisted_write m b b' a a' v
  have c (b' : BufNo) : cellsCanonical (m.unlisted b') 0 ((m.write b a v).cells b') = true := by
    by_cases hb : b' = b
    · subst hb
      rw [Memory.cells_write_same]
      exact cellsCanonical_writeCells v (m.wf_cells h b') (Nat.zero_le _)
    · rw [Memory.cells_write_other m hb]
      exact m.wf_cells h b'
  simp only [Memory.wf, Bool.and_eq_true]
  rw [e 0, e 1]
  exact ⟨c 0, c 1⟩

/-- `SetBit` keeps the canonical form. -/
theorem Memory.wf_setBit {m : Memory} (h : m.wf = true) (w : BitWrite) : (m.setBit w).wf = true :=
  Memory.wf_write h _ _ _

/-- A run of writes keeps the canonical form. -/
theorem Memory.wf_setBits {m : Memory} (h : m.wf = true) (ws : List BitWrite) : (m.setBits ws).wf = true := by
  induction ws generalizing m with
  | nil => exact h
  | cons w ws ih => exact ih (Memory.wf_setBit h w)

theorem getLsbD_setBitOf (v : Byte) {i : Nat} (hi : i < 8) (k : Nat) (on : Bool) :
    (setBitOf v i on).getLsbD k = if k = i then on else v.getLsbD k := by
  unfold setBitOf
  by_cases e : k = i
  · subst e
    cases on <;> simp [hi]
  · have hne : i ≠ k := fun h => e h.symm
    cases on
    · by_cases hk : k < 8
      · simp [hk, e]
      · have hv : v.getLsbD k = false := BitVec.getLsbD_of_ge v k (by omega)
        simp [hk, e, hv]
    · simp [BitVec.getLsbD_twoPow, hne, e]

/-- `SetBit` writes its bit and leaves the other seven of the byte, and all other bytes. -/
theorem Memory.getLsbD_read_setBit {m : Memory} (h : m.wf = true) (w : BitWrite) (hw : w.bit < 8) (b : BufNo) (a i : Nat) :
    ((m.setBit w).read b a).getLsbD i =
      if b = w.buf ∧ a = w.off ∧ i = w.bit then w.val else (m.read b a).getLsbD i := by
  unfold Memory.setBit
  by_cases hba : b = w.buf ∧ a = w.off
  · obtain ⟨rfl, rfl⟩ := hba
    rw [Memory.read_write_same h, getLsbD_setBitOf _ hw]
    simp
  · rw [Memory.read_write_ne m hba, if_neg (fun e => hba ⟨e.1, e.2.1⟩)]

/-- A run of writes leaves every bit alone that none of them names. -/
theorem Memory.getLsbD_read_setBits_of_not_mem {m : Memory} (h : m.wf = true) {ws : List BitWrite}
    (hw : ∀ w ∈ ws, w.bit < 8) {b : BufNo} {a i : Nat}
    (hn : ∀ w ∈ ws, ¬ (b = w.buf ∧ a = w.off ∧ i = w.bit)) :
    ((m.setBits ws).read b a).getLsbD i = (m.read b a).getLsbD i := by
  induction ws generalizing m with
  | nil => rfl
  | cons w ws ih =>
    have := ih (Memory.wf_setBit h w) (fun x hx => hw x (List.mem_cons_of_mem _ hx)) (fun x hx => hn x (List.mem_cons_of_mem _ hx))
    rw [show m.setBits (w :: ws) = (m.setBit w).setBits ws from rfl, this,
      Memory.getLsbD_read_setBit h w (hw w List.mem_cons_self), if_neg (hn w List.mem_cons_self)]

/-- A run of writes leaves every byte alone that none of them names, in any memory. -/
theorem Memory.read_setBits_of_not_mem (m : Memory) {ws : List BitWrite} {b : BufNo} {a : Nat}
    (hn : ∀ w ∈ ws, ¬ (b = w.buf ∧ a = w.off)) : (m.setBits ws).read b a = m.read b a := by
  induction ws generalizing m with
  | nil => rfl
  | cons w ws ih =>
    rw [show m.setBits (w :: ws) = (m.setBit w).setBits ws from rfl, ih _ (fun x hx => hn x (List.mem_cons_of_mem _ hx))]
    exact Memory.read_write_ne m (hn w List.mem_cons_self) _

theorem Memory.setBits_append (m : Memory) (ws ws' : List BitWrite) : m.setBits (ws ++ ws') = (m.setBits ws).setBits ws' :=
  List.foldl_append

theorem cellsCanonical_ext {d : Nat → Byte} {lo : Nat} {l l' : List Host.Cell} (h : cellsCanonical d lo l = true)
    (h' : cellsCanonical d lo l' = true) (e : ∀ a, lo ≤ a → readCells (d a) a l = readCells (d a) a l') : l = l' := by
  induction l generalizing lo l' with
  | nil =>
    cases l' with
    | nil => rfl
    | cons c' l' =>
      obtain ⟨a, v⟩ := c'
      simp only [cellsCanonical, Bool.and_eq_true, decide_eq_true_eq, bne_iff_ne, ne_eq] at h'
      have := e a h'.1.1
      simp only [readCells, if_true] at this
      exact absurd this.symm h'.1.2
  | cons c l ih =>
    obtain ⟨a, v⟩ := c
    have hc := h
    simp only [cellsCanonical, Bool.and_eq_true, decide_eq_true_eq, bne_iff_ne, ne_eq] at h
    cases l' with
    | nil =>
      have := e a h.1.1
      simp only [readCells, if_true] at this
      exact absurd this h.1.2
    | cons c' l' =>
      obtain ⟨a', v'⟩ := c'
      have hc' := h'
      simp only [cellsCanonical, Bool.and_eq_true, decide_eq_true_eq, bne_iff_ne, ne_eq] at h'
      have hlow {x : Nat} {b : Nat} {w : Byte} {k : List Host.Cell} (hk : cellsCanonical d (b + 1) k = true) (hxb : x < b) :
          readCells (d x) x ((b, w) :: k) = d x := by
        simp only [readCells, if_neg (Nat.ne_of_lt hxb)]
        exact readCells_of_lt _ hk (by omega)
      rcases Nat.lt_trichotomy a a' with hlt | rfl | hlt
      · have := e a h.1.1
        rw [hlow h'.2 hlt] at this
        simp only [readCells, if_true] at this
        exact absurd this h.1.2
      · have hv := e a h.1.1
        simp only [readCells, if_true] at hv
        subst hv
        have := ih h.2 h'.2 fun x hx => by
          have := e x (by omega)
          simpa only [readCells, if_neg (Nat.ne_of_gt hx)] using this
        rw [this]
      · have := e a' h'.1.1
        rw [hlow h.2 hlt] at this
        simp only [readCells, if_true] at this
        exact absurd this.symm h'.1.2

/-- Equal contents over equal launch contents are equal data. -/
theorem Memory.ext_read {m m' : Memory} (h : m.wf = true) (h' : m'.wf = true) (hl : m'.launch = m.launch) (h0 : m'.init0 = m.init0)
    (h1 : m'.init1 = m.init1) (e : ∀ b a, m.read b a = m'.read b a) : m = m' := by
  have hu (b : BufNo) : m'.unlisted b = m.unlisted b := by
    funext a
    unfold Memory.unlisted Memory.init
    rw [hl, h0, h1]
  have hc (b : BufNo) : m.cells b = m'.cells b := by
    refine cellsCanonical_ext (m.wf_cells h b) (hu b ▸ m'.wf_cells h' b) fun a _ => ?_
    have := e b a
    unfold Memory.read at this
    rwa [hu b] at this
  obtain ⟨n, i0, i1, c0, c1⟩ := m
  obtain ⟨n', i0', i1', c0', c1'⟩ := m'
  subst hl h0 h1
  have e0 : c0 = c0' := hc 0
  have e1 : c1 = c1' := hc 1
  rw [e0, e1]

/-- A run of writes leaves the launch contents alone. -/
theorem Memory.setBits_launch (m : Memory) (ws : List BitWrite) :
    (m.setBits ws).launch = m.launch ∧ (m.setBits ws).init0 = m.init0 ∧ (m.setBits ws).init1 = m.init1 := by
  induction ws generalizing m with
  | nil => exact ⟨rfl, rfl, rfl⟩
  | cons w ws ih =>
    have e : (m.setBit w).launch = m.launch ∧ (m.setBit w).init0 = m.init0 ∧ (m.setBit w).init1 = m.init1 := by
      unfold Memory.setBit Memory.write Memory.setCells
      split <;> exact ⟨rfl, rfl, rfl⟩
    have h := ih (m.setBit w)
    exact ⟨h.1.trans e.1, h.2.1.trans e.2.1, h.2.2.trans e.2.2⟩

end Sys2Proof.Machine
end

