-- ==== Sys2Proof/Laws/Pixel.lean ====
section
/-! SUPPORT. A pixel's byte in closed form, its 24 writes as a set, and the pixel operations on an idle block (40_pixel_encode.md R122 to R126, R130,
R131). -/

namespace Sys2Proof.Machine

/-- A multiplexer row is one of `RP`, a sector one of `SEC` (R13). -/
theorem legal_row {c : Config} (h : configLegal c = true) {y2 : Nat} (hy : y2 < c.h) : y2 % c.rp < c.rp ∧ y2 / c.rp < sectors c := by
  have hr := legal_rp_bounds h
  have hh := legal_h h
  exact ⟨Nat.mod_lt _ (by omega), Nat.div_lt_of_lt_mul (by omega)⟩

/-- The byte of a pixel inside a channel's sub-block (R68). -/
theorem legal_cell {c : Config} (h : configLegal c = true) {x2 y2 : Nat} (hx : x2 < c.w) (hy : y2 < c.h) :
    (y2 / c.rp) * rowBytes c + x2 / 8 < channelBytes c := by
  have hw := legal_w h
  have hs := (legal_row h hy).2
  have h1 : (y2 / c.rp + 1) * rowBytes c ≤ sectors c * rowBytes c := Nat.mul_le_mul_right _ hs
  rw [Nat.add_mul] at h1
  unfold channelBytes
  omega

/-- The offset of a pixel's channel counts down from the last byte of its slice (R123, R68, R69). -/
theorem baseOffset_eq {c : Config} (h : configLegal c = true) {x2 y2 : Nat} (hx : x2 < c.w) (hy : y2 < c.h) (ch : Channel) :
    ch.index * channelBytes c + (y2 / c.rp) * rowBytes c + x2 / 8 < sliceBytes c ∧
    baseOffset c x2 y2 ch =
      y2 % c.rp * sliceBytes c + (sliceBytes c - 1 - (ch.index * channelBytes c + (y2 / c.rp) * rowBytes c + x2 / 8)) := by
  have hk := legal_cell h hx hy
  cases ch <;> simp only [baseOffset, rowOffset, Channel.index, sliceBytes] <;> omega

theorem bitIndex_lt (c : Config) (x2 y2 : Nat) : bitIndex c x2 y2 < 8 := by
  unfold bitIndex
  split <;> omega

/-- The channel's value of a colour. -/
def Channel.of (r g b : Nat) : Channel → Nat
  | .red => r
  | .green => g
  | .blue => b

/-- The 24 writes are one per threshold index and channel (R126). -/
theorem mem_pixelWrites {c : Config} {tb : BufNo} {x2 y2 r g b : Nat} {w : BitWrite} :
    w ∈ pixelWrites c tb x2 y2 r g b ↔ ∃ p ch, p < 8 ∧ w = pixelWrite c tb x2 y2 p ch (ch.of r g b) := by
  unfold pixelWrites colorDepth
  simp only [List.mem_flatMap, List.mem_range, List.mem_cons, List.not_mem_nil, or_false]
  constructor
  · rintro ⟨p, hp, rfl | rfl | rfl⟩
    · exact ⟨p, .red, hp, rfl⟩
    · exact ⟨p, .green, hp, rfl⟩
    · exact ⟨p, .blue, hp, rfl⟩
  · rintro ⟨p, ch, hp, rfl⟩
    cases ch
    · exact ⟨p, hp, .inl rfl⟩
    · exact ⟨p, hp, .inr (.inl rfl)⟩
    · exact ⟨p, hp, .inr (.inr rfl)⟩

/-- Panel coordinates in range are a row and a column (R122). -/
theorem inPanel_iff {c : Config} {p : Int × Int} :
    inPanel c p = true ↔ (0 ≤ p.1 ∧ p.1.toNat < c.w) ∧ (0 ≤ p.2 ∧ p.2.toNat < c.h) := by
  simp only [inPanel, Bool.and_eq_true, decide_eq_true_eq]
  omega

/-- The coordinates of different logical pixels differ (R121). -/
theorem transform_injective (c : Config) {x y x' y' : Int} (h : transform c x y = transform c x' y') : x = x' ∧ y = y' := by
  unfold transform at h
  split at h <;> simp only [Prod.mk.injEq] at h <;> omega

/-- If the writer's turn answers a next state, it is the one after its writes. -/
theorem runWriter_next {n : Nat} {s t : State} (h : runWriter n s = .next t) : t = s.writes n := by
  unfold runWriter at h
  split at h <;> cases h
  rfl

/-- The writer's turn in full, where all its writes exist (R72). -/
theorem runWriter_of_exist {n : Nat} {s : State} (h : ∀ w, w ∈ s.wq.take n → w.off < frameBytes s.cfg) :
    runWriter n s = .next (s.writes n) := by
  unfold runWriter State.writesExist
  rw [if_pos]
  simpa [offsetExists] using h

/-- A pixel operation that owes writes which exist, with nothing owed before and not held, performs them at once (R126). -/
theorem startWriter_whole {ws : List BitWrite} {s : State} (hq : s.wq = []) (hh : s.hold = false)
    (h : ∀ w, w ∈ ws → w.off < frameBytes s.cfg) : startWriter ws s = .next { s with mem := s.mem.setBits ws } := by
  unfold startWriter
  rw [hh, if_neg (by decide), runWriter_of_exist]
  · simp only [State.writes, hq, List.nil_append, List.take_length, List.drop_length]
  · intro w hw
    simp only [hq, List.nil_append, List.take_length] at hw
    exact h w hw

end Sys2Proof.Machine
end

