-- ==== Sys2Proof/Laws/State.lean ====
section
/-! SUPPORT. One lemma per field per named update of the state, so that no proof unfolds a record update. -/

namespace Sys2Proof.Machine

/-! `State.emit` -/

@[simp] theorem State.emit_cfg (s : State) (e : Event) : (s.emit e).cfg = s.cfg := rfl
@[simp] theorem State.emit_wrbuf (s : State) (e : Event) : (s.emit e).wrbuf = s.wrbuf := rfl
@[simp] theorem State.emit_selbufR (s : State) (e : Event) : (s.emit e).selbufR = s.selbufR := rfl
@[simp] theorem State.emit_actbuf (s : State) (e : Event) : (s.emit e).actbuf = s.actbuf := rfl
@[simp] theorem State.emit_plane (s : State) (e : Event) : (s.emit e).plane = s.plane := rfl
@[simp] theorem State.emit_mux (s : State) (e : Event) : (s.emit e).mux = s.mux := rfl
@[simp] theorem State.emit_ontime (s : State) (e : Event) : (s.emit e).ontime = s.ontime := rfl
@[simp] theorem State.emit_swaprdy (s : State) (e : Event) : (s.emit e).swaprdy = s.swaprdy := rfl
@[simp] theorem State.emit_run (s : State) (e : Event) : (s.emit e).run = s.run := rfl
@[simp] theorem State.emit_fault (s : State) (e : Event) : (s.emit e).fault = s.fault := rfl
@[simp] theorem State.emit_fcause (s : State) (e : Event) : (s.emit e).fcause = s.fcause := rfl
@[simp] theorem State.emit_fplane (s : State) (e : Event) : (s.emit e).fplane = s.fplane := rfl
@[simp] theorem State.emit_fmux (s : State) (e : Event) : (s.emit e).fmux = s.fmux := rfl
@[simp] theorem State.emit_fbuf (s : State) (e : Event) : (s.emit e).fbuf = s.fbuf := rfl
@[simp] theorem State.emit_cmderr (s : State) (e : Event) : (s.emit e).cmderr = s.cmderr := rfl
@[simp] theorem State.emit_swappend (s : State) (e : Event) : (s.emit e).swappend = s.swappend := rfl
@[simp] theorem State.emit_mem (s : State) (e : Event) : (s.emit e).mem = s.mem := rfl
@[simp] theorem State.emit_pins (s : State) (e : Event) : (s.emit e).pins = s.pins.after e := rfl
@[simp] theorem State.emit_trace (s : State) (e : Event) : (s.emit e).trace = s.trace ++ [e] := rfl
@[simp] theorem State.emit_wq (s : State) (e : Event) : (s.emit e).wq = s.wq := rfl
@[simp] theorem State.emit_scan (s : State) (e : Event) : (s.emit e).scan = s.scan := rfl
@[simp] theorem State.emit_hold (s : State) (e : Event) : (s.emit e).hold = s.hold := rfl
@[simp] theorem State.emit_oracle (s : State) (e : Event) : (s.emit e).oracle = s.oracle := rfl
@[simp] theorem State.emit_draws (s : State) (e : Event) : (s.emit e).draws = s.draws := rfl
@[simp] theorem State.emit_inputs (s : State) (e : Event) : (s.emit e).inputs = s.inputs := rfl

/-! `State.respond` -/

@[simp] theorem State.respond_cfg (s : State) (v : BitVec 32) : (s.respond v).cfg = s.cfg := rfl
@[simp] theorem State.respond_wrbuf (s : State) (v : BitVec 32) : (s.respond v).wrbuf = s.wrbuf := rfl
@[simp] theorem State.respond_selbufR (s : State) (v : BitVec 32) : (s.respond v).selbufR = s.selbufR := rfl
@[simp] theorem State.respond_actbuf (s : State) (v : BitVec 32) : (s.respond v).actbuf = s.actbuf := rfl
@[simp] theorem State.respond_plane (s : State) (v : BitVec 32) : (s.respond v).plane = s.plane := rfl
@[simp] theorem State.respond_mux (s : State) (v : BitVec 32) : (s.respond v).mux = s.mux := rfl
@[simp] theorem State.respond_ontime (s : State) (v : BitVec 32) : (s.respond v).ontime = s.ontime := rfl
@[simp] theorem State.respond_swaprdy (s : State) (v : BitVec 32) : (s.respond v).swaprdy = s.swaprdy := rfl
@[simp] theorem State.respond_run (s : State) (v : BitVec 32) : (s.respond v).run = s.run := rfl
@[simp] theorem State.respond_fault (s : State) (v : BitVec 32) : (s.respond v).fault = s.fault := rfl
@[simp] theorem State.respond_fcause (s : State) (v : BitVec 32) : (s.respond v).fcause = s.fcause := rfl
@[simp] theorem State.respond_fplane (s : State) (v : BitVec 32) : (s.respond v).fplane = s.fplane := rfl
@[simp] theorem State.respond_fmux (s : State) (v : BitVec 32) : (s.respond v).fmux = s.fmux := rfl
@[simp] theorem State.respond_fbuf (s : State) (v : BitVec 32) : (s.respond v).fbuf = s.fbuf := rfl
@[simp] theorem State.respond_cmderr (s : State) (v : BitVec 32) : (s.respond v).cmderr = s.cmderr := rfl
@[simp] theorem State.respond_swappend (s : State) (v : BitVec 32) : (s.respond v).swappend = s.swappend := rfl
@[simp] theorem State.respond_mem (s : State) (v : BitVec 32) : (s.respond v).mem = s.mem := rfl
@[simp] theorem State.respond_pins (s : State) (v : BitVec 32) : (s.respond v).pins = s.pins := rfl
@[simp] theorem State.respond_trace (s : State) (v : BitVec 32) : (s.respond v).trace = s.trace ++ [.rsp v] := rfl
@[simp] theorem State.respond_wq (s : State) (v : BitVec 32) : (s.respond v).wq = s.wq := rfl
@[simp] theorem State.respond_scan (s : State) (v : BitVec 32) : (s.respond v).scan = s.scan := rfl
@[simp] theorem State.respond_hold (s : State) (v : BitVec 32) : (s.respond v).hold = s.hold := rfl
@[simp] theorem State.respond_oracle (s : State) (v : BitVec 32) : (s.respond v).oracle = s.oracle := rfl
@[simp] theorem State.respond_draws (s : State) (v : BitVec 32) : (s.respond v).draws = s.draws := rfl
@[simp] theorem State.respond_inputs (s : State) (v : BitVec 32) : (s.respond v).inputs = s.inputs := rfl

/-! `State.drawn` -/

@[simp] theorem State.drawn_cfg (s : State) : (s.drawn).cfg = s.cfg := rfl
@[simp] theorem State.drawn_wrbuf (s : State) : (s.drawn).wrbuf = s.wrbuf := rfl
@[simp] theorem State.drawn_selbufR (s : State) : (s.drawn).selbufR = s.selbufR := rfl
@[simp] theorem State.drawn_actbuf (s : State) : (s.drawn).actbuf = s.actbuf := rfl
@[simp] theorem State.drawn_plane (s : State) : (s.drawn).plane = s.plane := rfl
@[simp] theorem State.drawn_mux (s : State) : (s.drawn).mux = s.mux := rfl
@[simp] theorem State.drawn_ontime (s : State) : (s.drawn).ontime = s.ontime := rfl
@[simp] theorem State.drawn_swaprdy (s : State) : (s.drawn).swaprdy = s.swaprdy := rfl
@[simp] theorem State.drawn_run (s : State) : (s.drawn).run = s.run := rfl
@[simp] theorem State.drawn_fault (s : State) : (s.drawn).fault = s.fault := rfl
@[simp] theorem State.drawn_fcause (s : State) : (s.drawn).fcause = s.fcause := rfl
@[simp] theorem State.drawn_fplane (s : State) : (s.drawn).fplane = s.fplane := rfl
@[simp] theorem State.drawn_fmux (s : State) : (s.drawn).fmux = s.fmux := rfl
@[simp] theorem State.drawn_fbuf (s : State) : (s.drawn).fbuf = s.fbuf := rfl
@[simp] theorem State.drawn_cmderr (s : State) : (s.drawn).cmderr = s.cmderr := rfl
@[simp] theorem State.drawn_swappend (s : State) : (s.drawn).swappend = s.swappend := rfl
@[simp] theorem State.drawn_mem (s : State) : (s.drawn).mem = s.mem := rfl
@[simp] theorem State.drawn_pins (s : State) : (s.drawn).pins = s.pins := rfl
@[simp] theorem State.drawn_trace (s : State) : (s.drawn).trace = s.trace := rfl
@[simp] theorem State.drawn_wq (s : State) : (s.drawn).wq = s.wq := rfl
@[simp] theorem State.drawn_scan (s : State) : (s.drawn).scan = s.scan := rfl
@[simp] theorem State.drawn_hold (s : State) : (s.drawn).hold = s.hold := rfl
@[simp] theorem State.drawn_oracle (s : State) : (s.drawn).oracle = s.oracle.tail := rfl
@[simp] theorem State.drawn_draws (s : State) : (s.drawn).draws = s.draws + 1 := rfl
@[simp] theorem State.drawn_inputs (s : State) : (s.drawn).inputs = s.inputs := rfl

/-! `State.takeFault` -/

@[simp] theorem State.takeFault_cfg (s : State) (c : BitVec 3) (j : ScanJob) : (s.takeFault c j).cfg = s.cfg := rfl
@[simp] theorem State.takeFault_wrbuf (s : State) (c : BitVec 3) (j : ScanJob) : (s.takeFault c j).wrbuf = s.wrbuf := rfl
@[simp] theorem State.takeFault_selbufR (s : State) (c : BitVec 3) (j : ScanJob) : (s.takeFault c j).selbufR = s.selbufR := rfl
@[simp] theorem State.takeFault_actbuf (s : State) (c : BitVec 3) (j : ScanJob) : (s.takeFault c j).actbuf = s.actbuf := rfl
@[simp] theorem State.takeFault_plane (s : State) (c : BitVec 3) (j : ScanJob) : (s.takeFault c j).plane = s.plane := rfl
@[simp] theorem State.takeFault_mux (s : State) (c : BitVec 3) (j : ScanJob) : (s.takeFault c j).mux = s.mux := rfl
@[simp] theorem State.takeFault_ontime (s : State) (c : BitVec 3) (j : ScanJob) : (s.takeFault c j).ontime = s.ontime := rfl
@[simp] theorem State.takeFault_swaprdy (s : State) (c : BitVec 3) (j : ScanJob) : (s.takeFault c j).swaprdy = s.swaprdy := rfl
@[simp] theorem State.takeFault_run (s : State) (c : BitVec 3) (j : ScanJob) : (s.takeFault c j).run = s.run := rfl
@[simp] theorem State.takeFault_fault (s : State) (c : BitVec 3) (j : ScanJob) : (s.takeFault c j).fault = true := rfl
@[simp] theorem State.takeFault_fcause (s : State) (c : BitVec 3) (j : ScanJob) : (s.takeFault c j).fcause = c := rfl
@[simp] theorem State.takeFault_fplane (s : State) (c : BitVec 3) (j : ScanJob) : (s.takeFault c j).fplane = j.plane := rfl
@[simp] theorem State.takeFault_fmux (s : State) (c : BitVec 3) (j : ScanJob) : (s.takeFault c j).fmux = j.mux := rfl
@[simp] theorem State.takeFault_fbuf (s : State) (c : BitVec 3) (j : ScanJob) : (s.takeFault c j).fbuf = j.buf := rfl
@[simp] theorem State.takeFault_cmderr (s : State) (c : BitVec 3) (j : ScanJob) : (s.takeFault c j).cmderr = s.cmderr := rfl
@[simp] theorem State.takeFault_swappend (s : State) (c : BitVec 3) (j : ScanJob) : (s.takeFault c j).swappend = s.swappend := rfl
@[simp] theorem State.takeFault_mem (s : State) (c : BitVec 3) (j : ScanJob) : (s.takeFault c j).mem = s.mem := rfl
@[simp] theorem State.takeFault_pins (s : State) (c : BitVec 3) (j : ScanJob) : (s.takeFault c j).pins = { s.pins with oe := false } := rfl
@[simp] theorem State.takeFault_trace (s : State) (c : BitVec 3) (j : ScanJob) : (s.takeFault c j).trace = s.trace := rfl
@[simp] theorem State.takeFault_wq (s : State) (c : BitVec 3) (j : ScanJob) : (s.takeFault c j).wq = s.wq := rfl
@[simp] theorem State.takeFault_scan (s : State) (c : BitVec 3) (j : ScanJob) : (s.takeFault c j).scan = none := rfl
@[simp] theorem State.takeFault_hold (s : State) (c : BitVec 3) (j : ScanJob) : (s.takeFault c j).hold = s.hold := rfl
@[simp] theorem State.takeFault_oracle (s : State) (c : BitVec 3) (j : ScanJob) : (s.takeFault c j).oracle = s.oracle := rfl
@[simp] theorem State.takeFault_draws (s : State) (c : BitVec 3) (j : ScanJob) : (s.takeFault c j).draws = s.draws := rfl
@[simp] theorem State.takeFault_inputs (s : State) (c : BitVec 3) (j : ScanJob) : (s.takeFault c j).inputs = s.inputs := rfl

/-! `State.setScan` -/

@[simp] theorem State.setScan_cfg (s : State) (x : Option ScanJob) : (s.setScan x).cfg = s.cfg := rfl
@[simp] theorem State.setScan_wrbuf (s : State) (x : Option ScanJob) : (s.setScan x).wrbuf = s.wrbuf := rfl
@[simp] theorem State.setScan_selbufR (s : State) (x : Option ScanJob) : (s.setScan x).selbufR = s.selbufR := rfl
@[simp] theorem State.setScan_actbuf (s : State) (x : Option ScanJob) : (s.setScan x).actbuf = s.actbuf := rfl
@[simp] theorem State.setScan_plane (s : State) (x : Option ScanJob) : (s.setScan x).plane = s.plane := rfl
@[simp] theorem State.setScan_mux (s : State) (x : Option ScanJob) : (s.setScan x).mux = s.mux := rfl
@[simp] theorem State.setScan_ontime (s : State) (x : Option ScanJob) : (s.setScan x).ontime = s.ontime := rfl
@[simp] theorem State.setScan_swaprdy (s : State) (x : Option ScanJob) : (s.setScan x).swaprdy = s.swaprdy := rfl
@[simp] theorem State.setScan_run (s : State) (x : Option ScanJob) : (s.setScan x).run = s.run := rfl
@[simp] theorem State.setScan_fault (s : State) (x : Option ScanJob) : (s.setScan x).fault = s.fault := rfl
@[simp] theorem State.setScan_fcause (s : State) (x : Option ScanJob) : (s.setScan x).fcause = s.fcause := rfl
@[simp] theorem State.setScan_fplane (s : State) (x : Option ScanJob) : (s.setScan x).fplane = s.fplane := rfl
@[simp] theorem State.setScan_fmux (s : State) (x : Option ScanJob) : (s.setScan x).fmux = s.fmux := rfl
@[simp] theorem State.setScan_fbuf (s : State) (x : Option ScanJob) : (s.setScan x).fbuf = s.fbuf := rfl
@[simp] theorem State.setScan_cmderr (s : State) (x : Option ScanJob) : (s.setScan x).cmderr = s.cmderr := rfl
@[simp] theorem State.setScan_swappend (s : State) (x : Option ScanJob) : (s.setScan x).swappend = s.swappend := rfl
@[simp] theorem State.setScan_mem (s : State) (x : Option ScanJob) : (s.setScan x).mem = s.mem := rfl
@[simp] theorem State.setScan_pins (s : State) (x : Option ScanJob) : (s.setScan x).pins = s.pins := rfl
@[simp] theorem State.setScan_trace (s : State) (x : Option ScanJob) : (s.setScan x).trace = s.trace := rfl
@[simp] theorem State.setScan_wq (s : State) (x : Option ScanJob) : (s.setScan x).wq = s.wq := rfl
@[simp] theorem State.setScan_scan (s : State) (x : Option ScanJob) : (s.setScan x).scan = x := rfl
@[simp] theorem State.setScan_hold (s : State) (x : Option ScanJob) : (s.setScan x).hold = s.hold := rfl
@[simp] theorem State.setScan_oracle (s : State) (x : Option ScanJob) : (s.setScan x).oracle = s.oracle := rfl
@[simp] theorem State.setScan_draws (s : State) (x : Option ScanJob) : (s.setScan x).draws = s.draws := rfl
@[simp] theorem State.setScan_inputs (s : State) (x : Option ScanJob) : (s.setScan x).inputs = s.inputs := rfl

/-! `State.commandError` -/

@[simp] theorem State.commandError_cfg (s : State) : (s.commandError).cfg = s.cfg := rfl
@[simp] theorem State.commandError_wrbuf (s : State) : (s.commandError).wrbuf = s.wrbuf := rfl
@[simp] theorem State.commandError_selbufR (s : State) : (s.commandError).selbufR = s.selbufR := rfl
@[simp] theorem State.commandError_actbuf (s : State) : (s.commandError).actbuf = s.actbuf := rfl
@[simp] theorem State.commandError_plane (s : State) : (s.commandError).plane = s.plane := rfl
@[simp] theorem State.commandError_mux (s : State) : (s.commandError).mux = s.mux := rfl
@[simp] theorem State.commandError_ontime (s : State) : (s.commandError).ontime = s.ontime := rfl
@[simp] theorem State.commandError_swaprdy (s : State) : (s.commandError).swaprdy = s.swaprdy := rfl
@[simp] theorem State.commandError_run (s : State) : (s.commandError).run = s.run := rfl
@[simp] theorem State.commandError_fault (s : State) : (s.commandError).fault = s.fault := rfl
@[simp] theorem State.commandError_fcause (s : State) : (s.commandError).fcause = s.fcause := rfl
@[simp] theorem State.commandError_fplane (s : State) : (s.commandError).fplane = s.fplane := rfl
@[simp] theorem State.commandError_fmux (s : State) : (s.commandError).fmux = s.fmux := rfl
@[simp] theorem State.commandError_fbuf (s : State) : (s.commandError).fbuf = s.fbuf := rfl
@[simp] theorem State.commandError_cmderr (s : State) : (s.commandError).cmderr = true := rfl
@[simp] theorem State.commandError_swappend (s : State) : (s.commandError).swappend = s.swappend := rfl
@[simp] theorem State.commandError_mem (s : State) : (s.commandError).mem = s.mem := rfl
@[simp] theorem State.commandError_pins (s : State) : (s.commandError).pins = s.pins := rfl
@[simp] theorem State.commandError_trace (s : State) : (s.commandError).trace = s.trace := rfl
@[simp] theorem State.commandError_wq (s : State) : (s.commandError).wq = s.wq := rfl
@[simp] theorem State.commandError_scan (s : State) : (s.commandError).scan = s.scan := rfl
@[simp] theorem State.commandError_hold (s : State) : (s.commandError).hold = s.hold := rfl
@[simp] theorem State.commandError_oracle (s : State) : (s.commandError).oracle = s.oracle := rfl
@[simp] theorem State.commandError_draws (s : State) : (s.commandError).draws = s.draws := rfl
@[simp] theorem State.commandError_inputs (s : State) : (s.commandError).inputs = s.inputs := rfl

/-! `State.accept` -/

@[simp] theorem State.accept_cfg (s : State) (b : Bool) : (s.accept b).cfg = s.cfg := rfl
@[simp] theorem State.accept_wrbuf (s : State) (b : Bool) : (s.accept b).wrbuf = s.wrbuf := rfl
@[simp] theorem State.accept_selbufR (s : State) (b : Bool) : (s.accept b).selbufR = s.selbufR := rfl
@[simp] theorem State.accept_actbuf (s : State) (b : Bool) : (s.accept b).actbuf = s.actbuf := rfl
@[simp] theorem State.accept_plane (s : State) (b : Bool) : (s.accept b).plane = s.plane := rfl
@[simp] theorem State.accept_mux (s : State) (b : Bool) : (s.accept b).mux = s.mux := rfl
@[simp] theorem State.accept_ontime (s : State) (b : Bool) : (s.accept b).ontime = s.ontime := rfl
@[simp] theorem State.accept_swaprdy (s : State) (b : Bool) : (s.accept b).swaprdy = s.swaprdy := rfl
@[simp] theorem State.accept_run (s : State) (b : Bool) : (s.accept b).run = s.run := rfl
@[simp] theorem State.accept_fault (s : State) (b : Bool) : (s.accept b).fault = s.fault := rfl
@[simp] theorem State.accept_fcause (s : State) (b : Bool) : (s.accept b).fcause = s.fcause := rfl
@[simp] theorem State.accept_fplane (s : State) (b : Bool) : (s.accept b).fplane = s.fplane := rfl
@[simp] theorem State.accept_fmux (s : State) (b : Bool) : (s.accept b).fmux = s.fmux := rfl
@[simp] theorem State.accept_fbuf (s : State) (b : Bool) : (s.accept b).fbuf = s.fbuf := rfl
@[simp] theorem State.accept_cmderr (s : State) (b : Bool) : (s.accept b).cmderr = s.cmderr := rfl
@[simp] theorem State.accept_swappend (s : State) (b : Bool) : (s.accept b).swappend = s.swappend := rfl
@[simp] theorem State.accept_mem (s : State) (b : Bool) : (s.accept b).mem = s.mem := rfl
@[simp] theorem State.accept_pins (s : State) (b : Bool) : (s.accept b).pins = s.pins := rfl
@[simp] theorem State.accept_trace (s : State) (b : Bool) : (s.accept b).trace = s.trace := rfl
@[simp] theorem State.accept_wq (s : State) (b : Bool) : (s.accept b).wq = s.wq := rfl
@[simp] theorem State.accept_scan (s : State) (b : Bool) : (s.accept b).scan = s.scan := rfl
@[simp] theorem State.accept_hold (s : State) (b : Bool) : (s.accept b).hold = b := rfl
@[simp] theorem State.accept_oracle (s : State) (b : Bool) : (s.accept b).oracle = s.oracle := rfl
@[simp] theorem State.accept_draws (s : State) (b : Bool) : (s.accept b).draws = s.draws := rfl
@[simp] theorem State.accept_inputs (s : State) (b : Bool) : (s.accept b).inputs = s.inputs.tail := rfl

/-! `State.consumed` -/

@[simp] theorem State.consumed_cfg (s : State) : (s.consumed).cfg = s.cfg := rfl
@[simp] theorem State.consumed_wrbuf (s : State) : (s.consumed).wrbuf = s.wrbuf := rfl
@[simp] theorem State.consumed_selbufR (s : State) : (s.consumed).selbufR = s.selbufR := rfl
@[simp] theorem State.consumed_actbuf (s : State) : (s.consumed).actbuf = s.actbuf := rfl
@[simp] theorem State.consumed_plane (s : State) : (s.consumed).plane = s.plane := rfl
@[simp] theorem State.consumed_mux (s : State) : (s.consumed).mux = s.mux := rfl
@[simp] theorem State.consumed_ontime (s : State) : (s.consumed).ontime = s.ontime := rfl
@[simp] theorem State.consumed_swaprdy (s : State) : (s.consumed).swaprdy = s.swaprdy := rfl
@[simp] theorem State.consumed_run (s : State) : (s.consumed).run = s.run := rfl
@[simp] theorem State.consumed_fault (s : State) : (s.consumed).fault = s.fault := rfl
@[simp] theorem State.consumed_fcause (s : State) : (s.consumed).fcause = s.fcause := rfl
@[simp] theorem State.consumed_fplane (s : State) : (s.consumed).fplane = s.fplane := rfl
@[simp] theorem State.consumed_fmux (s : State) : (s.consumed).fmux = s.fmux := rfl
@[simp] theorem State.consumed_fbuf (s : State) : (s.consumed).fbuf = s.fbuf := rfl
@[simp] theorem State.consumed_cmderr (s : State) : (s.consumed).cmderr = s.cmderr := rfl
@[simp] theorem State.consumed_swappend (s : State) : (s.consumed).swappend = s.swappend := rfl
@[simp] theorem State.consumed_mem (s : State) : (s.consumed).mem = s.mem := rfl
@[simp] theorem State.consumed_pins (s : State) : (s.consumed).pins = s.pins := rfl
@[simp] theorem State.consumed_trace (s : State) : (s.consumed).trace = s.trace := rfl
@[simp] theorem State.consumed_wq (s : State) : (s.consumed).wq = s.wq := rfl
@[simp] theorem State.consumed_scan (s : State) : (s.consumed).scan = s.scan := rfl
@[simp] theorem State.consumed_hold (s : State) : (s.consumed).hold = s.hold := rfl
@[simp] theorem State.consumed_oracle (s : State) : (s.consumed).oracle = s.oracle := rfl
@[simp] theorem State.consumed_draws (s : State) : (s.consumed).draws = s.draws := rfl
@[simp] theorem State.consumed_inputs (s : State) : (s.consumed).inputs = s.inputs.tail := rfl

/-! `State.writes` -/

@[simp] theorem State.writes_cfg (s : State) (n : Nat) : (s.writes n).cfg = s.cfg := rfl
@[simp] theorem State.writes_wrbuf (s : State) (n : Nat) : (s.writes n).wrbuf = s.wrbuf := rfl
@[simp] theorem State.writes_selbufR (s : State) (n : Nat) : (s.writes n).selbufR = s.selbufR := rfl
@[simp] theorem State.writes_actbuf (s : State) (n : Nat) : (s.writes n).actbuf = s.actbuf := rfl
@[simp] theorem State.writes_plane (s : State) (n : Nat) : (s.writes n).plane = s.plane := rfl
@[simp] theorem State.writes_mux (s : State) (n : Nat) : (s.writes n).mux = s.mux := rfl
@[simp] theorem State.writes_ontime (s : State) (n : Nat) : (s.writes n).ontime = s.ontime := rfl
@[simp] theorem State.writes_swaprdy (s : State) (n : Nat) : (s.writes n).swaprdy = s.swaprdy := rfl
@[simp] theorem State.writes_run (s : State) (n : Nat) : (s.writes n).run = s.run := rfl
@[simp] theorem State.writes_fault (s : State) (n : Nat) : (s.writes n).fault = s.fault := rfl
@[simp] theorem State.writes_fcause (s : State) (n : Nat) : (s.writes n).fcause = s.fcause := rfl
@[simp] theorem State.writes_fplane (s : State) (n : Nat) : (s.writes n).fplane = s.fplane := rfl
@[simp] theorem State.writes_fmux (s : State) (n : Nat) : (s.writes n).fmux = s.fmux := rfl
@[simp] theorem State.writes_fbuf (s : State) (n : Nat) : (s.writes n).fbuf = s.fbuf := rfl
@[simp] theorem State.writes_cmderr (s : State) (n : Nat) : (s.writes n).cmderr = s.cmderr := rfl
@[simp] theorem State.writes_swappend (s : State) (n : Nat) : (s.writes n).swappend = s.swappend := rfl
@[simp] theorem State.writes_mem (s : State) (n : Nat) : (s.writes n).mem = s.mem.setBits (s.wq.take n) := rfl
@[simp] theorem State.writes_pins (s : State) (n : Nat) : (s.writes n).pins = s.pins := rfl
@[simp] theorem State.writes_trace (s : State) (n : Nat) : (s.writes n).trace = s.trace := rfl
@[simp] theorem State.writes_wq (s : State) (n : Nat) : (s.writes n).wq = s.wq.drop n := rfl
@[simp] theorem State.writes_scan (s : State) (n : Nat) : (s.writes n).scan = s.scan := rfl
@[simp] theorem State.writes_hold (s : State) (n : Nat) : (s.writes n).hold = s.hold := rfl
@[simp] theorem State.writes_oracle (s : State) (n : Nat) : (s.writes n).oracle = s.oracle := rfl
@[simp] theorem State.writes_draws (s : State) (n : Nat) : (s.writes n).draws = s.draws := rfl
@[simp] theorem State.writes_inputs (s : State) (n : Nat) : (s.writes n).inputs = s.inputs := rfl

/-! `State.granted` -/

@[simp] theorem State.granted_cfg (s : State) : (s.granted).cfg = s.cfg := rfl
@[simp] theorem State.granted_wrbuf (s : State) : (s.granted).wrbuf = s.wrbuf := rfl
@[simp] theorem State.granted_selbufR (s : State) : (s.granted).selbufR = ~~~s.selbufR := rfl
@[simp] theorem State.granted_actbuf (s : State) : (s.granted).actbuf = s.actbuf := rfl
@[simp] theorem State.granted_plane (s : State) : (s.granted).plane = s.plane := rfl
@[simp] theorem State.granted_mux (s : State) : (s.granted).mux = s.mux := rfl
@[simp] theorem State.granted_ontime (s : State) : (s.granted).ontime = s.ontime := rfl
@[simp] theorem State.granted_swaprdy (s : State) : (s.granted).swaprdy = s.swaprdy := rfl
@[simp] theorem State.granted_run (s : State) : (s.granted).run = s.run := rfl
@[simp] theorem State.granted_fault (s : State) : (s.granted).fault = s.fault := rfl
@[simp] theorem State.granted_fcause (s : State) : (s.granted).fcause = s.fcause := rfl
@[simp] theorem State.granted_fplane (s : State) : (s.granted).fplane = s.fplane := rfl
@[simp] theorem State.granted_fmux (s : State) : (s.granted).fmux = s.fmux := rfl
@[simp] theorem State.granted_fbuf (s : State) : (s.granted).fbuf = s.fbuf := rfl
@[simp] theorem State.granted_cmderr (s : State) : (s.granted).cmderr = s.cmderr := rfl
@[simp] theorem State.granted_swappend (s : State) : (s.granted).swappend = false := rfl
@[simp] theorem State.granted_mem (s : State) : (s.granted).mem = s.mem := rfl
@[simp] theorem State.granted_pins (s : State) : (s.granted).pins = s.pins := rfl
@[simp] theorem State.granted_trace (s : State) : (s.granted).trace = s.trace ++ [.rsp 0] := rfl
@[simp] theorem State.granted_wq (s : State) : (s.granted).wq = s.wq := rfl
@[simp] theorem State.granted_scan (s : State) : (s.granted).scan = s.scan := rfl
@[simp] theorem State.granted_hold (s : State) : (s.granted).hold = s.hold := rfl
@[simp] theorem State.granted_oracle (s : State) : (s.granted).oracle = s.oracle := rfl
@[simp] theorem State.granted_draws (s : State) : (s.granted).draws = s.draws := rfl
@[simp] theorem State.granted_inputs (s : State) : (s.granted).inputs = s.inputs := rfl

/-! `State.cycleStarted` -/

@[simp] theorem State.cycleStarted_cfg (s : State) : (s.cycleStarted).cfg = s.cfg := by
  unfold State.cycleStarted; split <;> rfl
@[simp] theorem State.cycleStarted_wrbuf (s : State) : (s.cycleStarted).wrbuf = s.wrbuf := by
  unfold State.cycleStarted; split <;> rfl
@[simp] theorem State.cycleStarted_selbufR (s : State) : (s.cycleStarted).selbufR = s.selbufR := by
  unfold State.cycleStarted; split <;> rfl
@[simp] theorem State.cycleStarted_actbuf (s : State) : (s.cycleStarted).actbuf = s.actbuf := by
  unfold State.cycleStarted; split <;> rfl
@[simp] theorem State.cycleStarted_plane (s : State) : (s.cycleStarted).plane = s.plane := by
  unfold State.cycleStarted; split <;> rfl
@[simp] theorem State.cycleStarted_mux (s : State) : (s.cycleStarted).mux = s.mux := by
  unfold State.cycleStarted; split <;> rfl
@[simp] theorem State.cycleStarted_ontime (s : State) : (s.cycleStarted).ontime = s.ontime := by
  unfold State.cycleStarted; split <;> rfl
@[simp] theorem State.cycleStarted_swaprdy (s : State) : (s.cycleStarted).swaprdy = if s.atCycleStart then false else s.swaprdy := by
  unfold State.cycleStarted; split <;> simp_all
@[simp] theorem State.cycleStarted_run (s : State) : (s.cycleStarted).run = s.run := by
  unfold State.cycleStarted; split <;> rfl
@[simp] theorem State.cycleStarted_fault (s : State) : (s.cycleStarted).fault = s.fault := by
  unfold State.cycleStarted; split <;> rfl
@[simp] theorem State.cycleStarted_fcause (s : State) : (s.cycleStarted).fcause = s.fcause := by
  unfold State.cycleStarted; split <;> rfl
@[simp] theorem State.cycleStarted_fplane (s : State) : (s.cycleStarted).fplane = s.fplane := by
  unfold State.cycleStarted; split <;> rfl
@[simp] theorem State.cycleStarted_fmux (s : State) : (s.cycleStarted).fmux = s.fmux := by
  unfold State.cycleStarted; split <;> rfl
@[simp] theorem State.cycleStarted_fbuf (s : State) : (s.cycleStarted).fbuf = s.fbuf := by
  unfold State.cycleStarted; split <;> rfl
@[simp] theorem State.cycleStarted_cmderr (s : State) : (s.cycleStarted).cmderr = s.cmderr := by
  unfold State.cycleStarted; split <;> rfl
@[simp] theorem State.cycleStarted_swappend (s : State) : (s.cycleStarted).swappend = s.swappend := by
  unfold State.cycleStarted; split <;> rfl
@[simp] theorem State.cycleStarted_mem (s : State) : (s.cycleStarted).mem = s.mem := by
  unfold State.cycleStarted; split <;> rfl
@[simp] theorem State.cycleStarted_pins (s : State) : (s.cycleStarted).pins = s.pins := by
  unfold State.cycleStarted; split <;> rfl
@[simp] theorem State.cycleStarted_trace (s : State) : (s.cycleStarted).trace = s.trace := by
  unfold State.cycleStarted; split <;> rfl
@[simp] theorem State.cycleStarted_wq (s : State) : (s.cycleStarted).wq = s.wq := by
  unfold State.cycleStarted; split <;> rfl
@[simp] theorem State.cycleStarted_scan (s : State) : (s.cycleStarted).scan = s.scan := by
  unfold State.cycleStarted; split <;> rfl
@[simp] theorem State.cycleStarted_hold (s : State) : (s.cycleStarted).hold = s.hold := by
  unfold State.cycleStarted; split <;> rfl
@[simp] theorem State.cycleStarted_oracle (s : State) : (s.cycleStarted).oracle = s.oracle := by
  unfold State.cycleStarted; split <;> rfl
@[simp] theorem State.cycleStarted_draws (s : State) : (s.cycleStarted).draws = s.draws := by
  unfold State.cycleStarted; split <;> rfl
@[simp] theorem State.cycleStarted_inputs (s : State) : (s.cycleStarted).inputs = s.inputs := by
  unfold State.cycleStarted; split <;> rfl

/-! `State.cycleBoundary` -/

@[simp] theorem State.cycleBoundary_cfg (s : State) : (s.cycleBoundary).cfg = s.cfg := by
  unfold State.cycleBoundary; split <;> simp_all
@[simp] theorem State.cycleBoundary_wrbuf (s : State) : (s.cycleBoundary).wrbuf = s.wrbuf := by
  unfold State.cycleBoundary; split <;> simp_all
@[simp] theorem State.cycleBoundary_selbufR (s : State) : (s.cycleBoundary).selbufR = if s.swappend then ~~~s.selbufR else s.selbufR := by
  unfold State.cycleBoundary; split <;> simp_all
@[simp] theorem State.cycleBoundary_actbuf (s : State) : (s.cycleBoundary).actbuf = s.selbufR := by
  unfold State.cycleBoundary; split <;> simp_all
@[simp] theorem State.cycleBoundary_plane (s : State) : (s.cycleBoundary).plane = s.plane := by
  unfold State.cycleBoundary; split <;> simp_all
@[simp] theorem State.cycleBoundary_mux (s : State) : (s.cycleBoundary).mux = s.mux := by
  unfold State.cycleBoundary; split <;> simp_all
@[simp] theorem State.cycleBoundary_ontime (s : State) : (s.cycleBoundary).ontime = s.ontime := by
  unfold State.cycleBoundary; split <;> simp_all
@[simp] theorem State.cycleBoundary_swaprdy (s : State) : (s.cycleBoundary).swaprdy = true := by
  unfold State.cycleBoundary; split <;> simp_all
@[simp] theorem State.cycleBoundary_run (s : State) : (s.cycleBoundary).run = s.run := by
  unfold State.cycleBoundary; split <;> simp_all
@[simp] theorem State.cycleBoundary_fault (s : State) : (s.cycleBoundary).fault = s.fault := by
  unfold State.cycleBoundary; split <;> simp_all
@[simp] theorem State.cycleBoundary_fcause (s : State) : (s.cycleBoundary).fcause = s.fcause := by
  unfold State.cycleBoundary; split <;> simp_all
@[simp] theorem State.cycleBoundary_fplane (s : State) : (s.cycleBoundary).fplane = s.fplane := by
  unfold State.cycleBoundary; split <;> simp_all
@[simp] theorem State.cycleBoundary_fmux (s : State) : (s.cycleBoundary).fmux = s.fmux := by
  unfold State.cycleBoundary; split <;> simp_all
@[simp] theorem State.cycleBoundary_fbuf (s : State) : (s.cycleBoundary).fbuf = s.fbuf := by
  unfold State.cycleBoundary; split <;> simp_all
@[simp] theorem State.cycleBoundary_cmderr (s : State) : (s.cycleBoundary).cmderr = s.cmderr := by
  unfold State.cycleBoundary; split <;> simp_all
@[simp] theorem State.cycleBoundary_swappend (s : State) : (s.cycleBoundary).swappend = false := by
  unfold State.cycleBoundary; split <;> simp_all
@[simp] theorem State.cycleBoundary_mem (s : State) : (s.cycleBoundary).mem = s.mem := by
  unfold State.cycleBoundary; split <;> simp_all
@[simp] theorem State.cycleBoundary_pins (s : State) : (s.cycleBoundary).pins = s.pins := by
  unfold State.cycleBoundary; split <;> simp_all
@[simp] theorem State.cycleBoundary_trace (s : State) : (s.cycleBoundary).trace = s.trace ++ (if s.swappend then [.rsp 0] else []) := by
  unfold State.cycleBoundary; split <;> simp_all
@[simp] theorem State.cycleBoundary_wq (s : State) : (s.cycleBoundary).wq = s.wq := by
  unfold State.cycleBoundary; split <;> simp_all
@[simp] theorem State.cycleBoundary_scan (s : State) : (s.cycleBoundary).scan = s.scan := by
  unfold State.cycleBoundary; split <;> simp_all
@[simp] theorem State.cycleBoundary_hold (s : State) : (s.cycleBoundary).hold = s.hold := by
  unfold State.cycleBoundary; split <;> simp_all
@[simp] theorem State.cycleBoundary_oracle (s : State) : (s.cycleBoundary).oracle = s.oracle := by
  unfold State.cycleBoundary; split <;> simp_all
@[simp] theorem State.cycleBoundary_draws (s : State) : (s.cycleBoundary).draws = s.draws := by
  unfold State.cycleBoundary; split <;> simp_all
@[simp] theorem State.cycleBoundary_inputs (s : State) : (s.cycleBoundary).inputs = s.inputs := by
  unfold State.cycleBoundary; split <;> simp_all

/-! `State.advance` -/

@[simp] theorem State.advance_cfg (s : State) : (s.advance).cfg = s.cfg := by
  unfold State.advance; split
  · rfl
  · split
    · rfl
    · simp
@[simp] theorem State.advance_wrbuf (s : State) : (s.advance).wrbuf = s.wrbuf := by
  unfold State.advance; split
  · rfl
  · split
    · rfl
    · simp
@[simp] theorem State.advance_ontime (s : State) : (s.advance).ontime = s.ontime := by
  unfold State.advance; split
  · rfl
  · split
    · rfl
    · simp
@[simp] theorem State.advance_run (s : State) : (s.advance).run = s.run := by
  unfold State.advance; split
  · rfl
  · split
    · rfl
    · simp
@[simp] theorem State.advance_fault (s : State) : (s.advance).fault = s.fault := by
  unfold State.advance; split
  · rfl
  · split
    · rfl
    · simp
@[simp] theorem State.advance_fcause (s : State) : (s.advance).fcause = s.fcause := by
  unfold State.advance; split
  · rfl
  · split
    · rfl
    · simp
@[simp] theorem State.advance_fplane (s : State) : (s.advance).fplane = s.fplane := by
  unfold State.advance; split
  · rfl
  · split
    · rfl
    · simp
@[simp] theorem State.advance_fmux (s : State) : (s.advance).fmux = s.fmux := by
  unfold State.advance; split
  · rfl
  · split
    · rfl
    · simp
@[simp] theorem State.advance_fbuf (s : State) : (s.advance).fbuf = s.fbuf := by
  unfold State.advance; split
  · rfl
  · split
    · rfl
    · simp
@[simp] theorem State.advance_cmderr (s : State) : (s.advance).cmderr = s.cmderr := by
  unfold State.advance; split
  · rfl
  · split
    · rfl
    · simp
@[simp] theorem State.advance_mem (s : State) : (s.advance).mem = s.mem := by
  unfold State.advance; split
  · rfl
  · split
    · rfl
    · simp
@[simp] theorem State.advance_pins (s : State) : (s.advance).pins = s.pins := by
  unfold State.advance; split
  · rfl
  · split
    · rfl
    · simp
@[simp] theorem State.advance_wq (s : State) : (s.advance).wq = s.wq := by
  unfold State.advance; split
  · rfl
  · split
    · rfl
    · simp
@[simp] theorem State.advance_scan (s : State) : (s.advance).scan = s.scan := by
  unfold State.advance; split
  · rfl
  · split
    · rfl
    · simp
@[simp] theorem State.advance_hold (s : State) : (s.advance).hold = s.hold := by
  unfold State.advance; split
  · rfl
  · split
    · rfl
    · simp
@[simp] theorem State.advance_oracle (s : State) : (s.advance).oracle = s.oracle := by
  unfold State.advance; split
  · rfl
  · split
    · rfl
    · simp
@[simp] theorem State.advance_draws (s : State) : (s.advance).draws = s.draws := by
  unfold State.advance; split
  · rfl
  · split
    · rfl
    · simp
@[simp] theorem State.advance_inputs (s : State) : (s.advance).inputs = s.inputs := by
  unfold State.advance; split
  · rfl
  · split
    · rfl
    · simp

end Sys2Proof.Machine
end

