-- ==== Sys2Proof/Laws/Scan.lean ====
section
/-! SUPPORT. What the scanner's actions do, said once: the actions compose, each keeps what belongs to the writer, and a scan step that is not
cut short has the closed form of R170 or the failure of R173. -/

namespace Sys2Proof.Machine

theorem scanActions_add (m n : Nat) (s : State) : scanActions (m + n) s = scanActions n (scanActions m s) := by
  induction m generalizing s with
  | zero => simp [scanActions]
  | succ m ih => rw [Nat.succ_add]; exact ih _

theorem scanActions_one (s : State) : scanActions 1 s = scanAction s := rfl

theorem scanAction_of_none {s : State} (h : s.scan = none) : scanAction s = s := by
  unfold scanAction; rw [h]

theorem scanActions_of_none {s : State} (h : s.scan = none) (n : Nat) : scanActions n s = s := by
  induction n with
  | zero => rfl
  | succ n ih => rw [scanActions, scanAction_of_none h, ih]

/-- What no action of the scanner writes (R270): the writer's registers, the buffers, the parameters, the port. -/
structure ScanKeeps (s t : State) : Prop where
  cfg : t.cfg = s.cfg
  wrbuf : t.wrbuf = s.wrbuf
  ontime : t.ontime = s.ontime
  run : t.run = s.run
  cmderr : t.cmderr = s.cmderr
  mem : t.mem = s.mem
  wq : t.wq = s.wq
  hold : t.hold = s.hold
  inputs : t.inputs = s.inputs

theorem ScanKeeps.refl (s : State) : ScanKeeps s s := ⟨rfl, rfl, rfl, rfl, rfl, rfl, rfl, rfl, rfl⟩

theorem ScanKeeps.trans {s t u : State} (h : ScanKeeps s t) (h' : ScanKeeps t u) : ScanKeeps s u :=
  ⟨h'.cfg.trans h.cfg, h'.wrbuf.trans h.wrbuf, h'.ontime.trans h.ontime, h'.run.trans h.run, h'.cmderr.trans h.cmderr,
    h'.mem.trans h.mem, h'.wq.trans h.wq, h'.hold.trans h.hold, h'.inputs.trans h.inputs⟩

theorem scanAction_keeps (s : State) : ScanKeeps s (scanAction s) := by
  unfold scanAction
  split
  · exact .refl s
  · split
    · unfold scanBegin beginStep
      split
      · constructor <;> simp
      · split <;> constructor <;> simp
    · split
      · unfold scanByte; split <;> constructor <;> simp
      · split
        · unfold scanLatch; split <;> constructor <;> simp
        · unfold scanEnable
          split
          · constructor <;> simp
          · split <;> constructor <;> simp

theorem scanActions_keeps (n : Nat) (s : State) : ScanKeeps s (scanActions n s) := by
  induction n generalizing s with
  | zero => exact .refl s
  | succ n ih => exact (scanAction_keeps s).trans (ih _)

/-- If the scanner's run answers a next state, that state is the one after its actions. -/
theorem runScanner_next {n : Nat} {s t : State} (h : runScanner n s = .next t) : t = scanActions n s := by
  unfold runScanner at h
  split at h
  · rename_i hs; cases h; exact (scanActions_of_none hs n).symm
  · split at h <;> cases h; rfl

theorem runScanner_keeps {n : Nat} {s t : State} (h : runScanner n s = .next t) : ScanKeeps s t :=
  runScanner_next h ▸ scanActions_keeps n s

theorem runScanner_ne_refused (n : Nat) (s : State) (r : Refusal) : runScanner n s ≠ .refused r := by
  unfold runScanner
  split
  · simp
  · split <;> simp

/-- If the job in progress is finished, the state is the one after some of the scanner's actions. -/
theorem finishScanner_next {s t : State} (h : finishScanner s = .next t) : ∃ n, t = scanActions n s := by
  unfold finishScanner at h
  split at h
  · cases h; exact ⟨0, rfl⟩
  · exact ⟨_, runScanner_next h⟩

theorem finishScanner_of_none {s : State} (h : s.scan = none) : finishScanner s = .next s := by
  unfold finishScanner; rw [h]

theorem afterScanner_of_none {k : State → Host.Outcome State Fault Refusal} {s : State} (h : s.scan = none) :
    afterScanner k s = k s := by
  unfold afterScanner; rw [finishScanner_of_none h]

theorem afterScanner_next {k : State → Host.Outcome State Fault Refusal} {s t : State} (h : afterScanner k s = .next t) :
    ∃ n, k (scanActions n s) = .next t := by
  unfold afterScanner at h
  split at h
  · rename_i s' hs
    obtain ⟨n, rfl⟩ := finishScanner_next hs
    exact ⟨n, h⟩
  · cases h
  · cases h

/-- A closed gate: nothing happens (R174, R261). -/
theorem gatedScan_closed {closed : State → Bool} {k : State → Host.Outcome State Fault Refusal} {s : State} (h : closed s = true) :
    gatedScan closed k s = .next s := by
  unfold gatedScan; rw [if_pos h]

/-- An open gate with no scan operation in progress. -/
theorem gatedScan_open {closed : State → Bool} {k : State → Host.Outcome State Fault Refusal} {s : State} (h : closed s = false)
    (hs : s.scan = none) : gatedScan closed k s = k s := by
  unfold gatedScan; rw [if_neg (by simp [h]), afterScanner_of_none hs, if_neg (by simp [h])]

/-- If an operation behind its gate answers a next state, either only the operation in progress went on, or that one is over, the gate is
still open, and `k` answered. -/
theorem gatedScan_next {closed : State → Bool} {k : State → Host.Outcome State Fault Refusal} {s t : State}
    (h : gatedScan closed k s = .next t) :
    (closed s = true ∧ t = s) ∨
    (closed s = false ∧ ∃ n, (closed (scanActions n s) = true ∧ t = scanActions n s) ∨
      (closed (scanActions n s) = false ∧ k (scanActions n s) = .next t)) := by
  unfold gatedScan at h
  split at h
  · rename_i hc; cases h; exact .inl ⟨hc, rfl⟩
  · rename_i hc
    obtain ⟨n, h⟩ := afterScanner_next h
    refine .inr ⟨by simpa using hc, n, ?_⟩
    split at h
    · rename_i hc'; cases h; exact .inl ⟨hc', rfl⟩
    · rename_i hc'; exact .inr ⟨by simpa using hc', h⟩

/-- If a job starts, the state is the one after some of its actions. -/
theorem startScanner_next {j : ScanJob} {s t : State} (h : startScanner j s = .next t) :
    ∃ n, t = scanActions n (s.setScan (some j)) := by
  unfold startScanner at h
  split at h
  · cases h; exact ⟨0, rfl⟩
  · exact ⟨_, runScanner_next h⟩

/-- `TICK` and `STEP` behind their gate: either nothing, or some actions of a job of the sequencer. -/
theorem scanSteps_next {n : Nat} {s t : State} (h : scanSteps n s = .next t) :
    t = s ∨ ∃ k m, t = scanActions m (s.setScan (some (sequencedJob s k))) := by
  unfold scanSteps at h
  split at h
  · cases h; exact .inl rfl
  · obtain ⟨m, rfl⟩ := startScanner_next h
    exact .inr ⟨_, m, rfl⟩

/-- The trace and the pins after several events. -/
def State.emitAll (s : State) (es : List Event) : State := es.foldl State.emit s

@[simp] theorem State.emitAll_nil (s : State) : s.emitAll [] = s := rfl

@[simp] theorem State.emitAll_cons (s : State) (e : Event) (es : List Event) : s.emitAll (e :: es) = (s.emit e).emitAll es := rfl

theorem State.emitAll_append (s : State) (es es' : List Event) : s.emitAll (es ++ es') = (s.emitAll es).emitAll es' :=
  List.foldl_append

theorem State.emitAll_eq (s : State) (es : List Event) :
    s.emitAll es = { s with trace := s.trace ++ es, pins := es.foldl Pins.after s.pins } := by
  induction es generalizing s with
  | nil => simp
  | cons e es ih => simp [ih, State.emit]

theorem State.emitAll_setScan (s : State) (x : Option ScanJob) (es : List Event) :
    (s.setScan x).emitAll es = (s.emitAll es).setScan x := by
  simp [State.emitAll_eq, State.setScan]

theorem State.setScan_emit (s : State) (x : Option ScanJob) (e : Event) : (s.setScan x).emit e = (s.emit e).setScan x := rfl

@[simp] theorem State.setScan_setScan (s : State) (x y : Option ScanJob) : (s.setScan x).setScan y = s.setScan y := rfl

/-- The bytes of a step from number `k` on, `n` of them, none of which the transport refuses. -/
theorem scanActions_bytes {j : ScanJob} {s : State} (k n : Nat) (hs : s.scan = some { j with pos := k + 1 })
    (hn : k + n ≤ sliceBytes s.cfg) (ho : ∀ i, k ≤ i → i < k + n → j.outcome ≠ .txfail i) :
    scanActions n s =
      (s.emitAll (((List.range' k n).map fun i => s.mem.read j.buf (txOffset s.cfg j.plane.toNat j.mux.toNat i)).map .tx)).setScan
        (some { j with pos := k + n + 1 }) := by
  induction n generalizing k s with
  | zero =>
    simp only [scanActions, Nat.add_zero]
    rw [← hs]; rfl
  | succ n ih =>
    have hb : scanAction s =
        (s.emit (.tx (s.mem.read j.buf (txOffset s.cfg j.plane.toNat j.mux.toNat k)))).setScan (some { j with pos := k + 1 + 1 }) := by
      unfold scanAction
      rw [hs]
      have h1 : k + 1 ≤ sliceBytes s.cfg := by omega
      simp only [Nat.succ_ne_zero, if_false, h1, if_true, Nat.add_sub_cancel]
      unfold scanByte
      rw [if_neg (ho k (Nat.le_refl _) (by omega))]
    rw [scanActions, hb]
    rw [ih (k + 1) rfl (by simpa using (by omega : k + 1 + n ≤ sliceBytes s.cfg))
      (fun i h1 h2 => ho i (by omega) (by omega))]
    simp only [List.range'_succ, List.map_cons, State.emitAll_cons, State.emit_cfg, State.emit_mem, State.setScan_cfg, State.setScan_mem,
      State.emitAll_setScan, State.setScan_setScan]
    rw [show k + 1 + n + 1 = k + (n + 1) + 1 by omega]

@[simp] theorem State.emitAll_cfg (s : State) (es : List Event) : (s.emitAll es).cfg = s.cfg := by simp [State.emitAll_eq]

@[simp] theorem State.emitAll_mem (s : State) (es : List Event) : (s.emitAll es).mem = s.mem := by simp [State.emitAll_eq]

@[simp] theorem State.emitAll_trace (s : State) (es : List Event) : (s.emitAll es).trace = s.trace ++ es := by
  simp [State.emitAll_eq]

/-- The first `n` bytes of a step that has begun, none of which the transport refuses (R170). -/
theorem scanActions_firstBytes {j : ScanJob} {s : State} (n : Nat) (hs : s.scan = some { j with pos := 1 })
    (hn : n ≤ sliceBytes s.cfg) (ho : ∀ i, i < n → j.outcome ≠ .txfail i) :
    scanActions n s =
      (s.emitAll (((wireBytes s.cfg s.mem j.buf j.plane.toNat j.mux.toNat).take n).map .tx)).setScan
        (some { j with pos := n + 1 }) := by
  rw [scanActions_bytes 0 n hs (by omega) (fun i _ h => ho i (by omega))]
  have : (wireBytes s.cfg s.mem j.buf j.plane.toNat j.mux.toNat).take n =
      (List.range' 0 n).map fun i => s.mem.read j.buf (txOffset s.cfg j.plane.toNat j.mux.toNat i) := by
    unfold wireBytes
    rw [← List.map_take, List.take_range, Nat.min_eq_left hn, List.range_eq_range']
  rw [this, Nat.zero_add]

theorem wireBytes_length (c : Config) (m : Memory) (b : BufNo) (p x : Nat) : (wireBytes c m b p x).length = sliceBytes c := by
  simp [wireBytes]

theorem scanAction_latch {j : ScanJob} {s : State} (hs : s.scan = some j) (hp : j.pos = sliceBytes s.cfg + 1) :
    scanAction s = scanLatch j s := by
  unfold scanAction
  rw [hs]
  simp [hp]

theorem scanAction_enable {j : ScanJob} {s : State} (hs : s.scan = some j) (hp : j.pos = sliceBytes s.cfg + 2) :
    scanAction s = scanEnable j s := by
  unfold scanAction
  rw [hs]
  simp [hp]

theorem scanAction_byte {j : ScanJob} {s : State} {k : Nat} (hs : s.scan = some j) (hp : j.pos = k + 1) (hk : k < sliceBytes s.cfg) :
    scanAction s = scanByte j k s := by
  have : k + 1 ≤ sliceBytes s.cfg := hk
  unfold scanAction
  rw [hs]
  simp [hp, this]

theorem scanAction_begin {j : ScanJob} {s : State} (hs : s.scan = some j) (hp : j.pos = 0) : scanAction s = scanBegin j s := by
  unfold scanAction
  rw [hs]
  simp [hp]

/-- A step that has begun, up to its latch pulse (R170). -/
theorem scanActions_toLatch {j : ScanJob} {s : State} (hs : s.scan = some { j with pos := 1 })
    (ho : ∀ i, i < sliceBytes s.cfg → j.outcome ≠ .txfail i) (hl : j.outcome ≠ .latfail) :
    scanActions (sliceBytes s.cfg + 1) s =
      (s.emitAll ((wireBytes s.cfg s.mem j.buf j.plane.toNat j.mux.toNat).map .tx ++ [.lat])).setScan
        (some { j with pos := sliceBytes s.cfg + 2 }) := by
  rw [scanActions_add, scanActions_firstBytes _ hs (Nat.le_refl _) ho, List.take_of_length_le (by rw [wireBytes_length]),
    scanActions_one]
  rw [scanAction_latch (j := { j with pos := sliceBytes s.cfg + 1 }) rfl (by simp)]
  unfold scanLatch
  rw [if_neg hl, State.emitAll_append]
  rfl

/-- The state in which a step that has begun is complete (R170, R177). -/
def stepDone (j : ScanJob) (s : State) : State :=
  let u := s.emitAll ((wireBytes s.cfg s.mem j.buf j.plane.toNat j.mux.toNat).map .tx ++ [.lat, .oe j.t])
  (if j.direct then u else u.advance).setScan j.next

/-- Advancing writes nothing of the scanner's job and does not depend on it. -/
theorem State.setScan_advance (s : State) (x : Option ScanJob) : (s.setScan x).advance = s.advance.setScan x := by
  unfold State.advance State.cycleBoundary State.granted State.respond State.emit State.setScan
  split
  · rfl
  · split
    · rfl
    · simp only
      split <;> rfl

/-- A step that has begun and that the transport does not let down is completed (R170). -/
theorem scanActions_rest_ok {j : ScanJob} {s : State} (hs : s.scan = some { j with pos := 1 }) (ho : j.outcome = .ok) :
    scanActions (sliceBytes s.cfg + 2) s = stepDone j s := by
  rw [show sliceBytes s.cfg + 2 = sliceBytes s.cfg + 1 + 1 from rfl, scanActions_add,
    scanActions_toLatch hs (by simp [ho]) (by simp [ho]), scanActions_one]
  rw [scanAction_enable (j := { j with pos := sliceBytes s.cfg + 2 }) rfl (by simp)]
  have e (X : List Event) : s.emitAll (X ++ [.lat, .oe j.t]) = (s.emitAll (X ++ [.lat])).emit (.oe j.t) := by
    rw [List.append_cons, State.emitAll_append]; rfl
  unfold scanEnable stepDone ScanJob.next
  rw [if_neg (by simp [ho])]
  simp only [State.setScan_emit, State.setScan_advance, State.setScan_setScan, e]
  split <;> rfl

/-- A step that has begun and whose transmission fails before byte `k` ends in the fault of R256 (R173). -/
theorem scanActions_rest_tx {j : ScanJob} {s : State} {k : Nat} (hs : s.scan = some { j with pos := 1 })
    (ho : j.outcome = .txfail k) (hk : k < sliceBytes s.cfg) :
    scanActions (k + 1) s =
      (s.emitAll (((wireBytes s.cfg s.mem j.buf j.plane.toNat j.mux.toNat).take k).map .tx)).takeFault causeTx j := by
  rw [scanActions_add, scanActions_firstBytes k hs (by omega) (fun i hi => by simp [ho]; omega), scanActions_one]
  rw [scanAction_byte (j := { j with pos := k + 1 }) (k := k) rfl rfl (by simpa using hk)]
  unfold scanByte
  rw [if_pos ho]
  rfl

/-- A step that has begun and whose latch control fails ends in the fault of R256 (R173). -/
theorem scanActions_rest_latch {j : ScanJob} {s : State} (hs : s.scan = some { j with pos := 1 }) (ho : j.outcome = .latfail) :
    scanActions (sliceBytes s.cfg + 1) s =
      (s.emitAll ((wireBytes s.cfg s.mem j.buf j.plane.toNat j.mux.toNat).map .tx)).takeFault causeLatch j := by
  rw [scanActions_add, scanActions_firstBytes _ hs (Nat.le_refl _) (by simp [ho]), List.take_of_length_le (by rw [wireBytes_length]),
    scanActions_one]
  rw [scanAction_latch (j := { j with pos := sliceBytes s.cfg + 1 }) rfl (by simp)]
  unfold scanLatch
  rw [if_pos ho]
  rfl

/-- A step that has begun and whose output-enable control fails ends in the fault of R256 (R173). -/
theorem scanActions_rest_oe {j : ScanJob} {s : State} (hs : s.scan = some { j with pos := 1 }) (ho : j.outcome = .oefail) :
    scanActions (sliceBytes s.cfg + 2) s =
      (s.emitAll ((wireBytes s.cfg s.mem j.buf j.plane.toNat j.mux.toNat).map .tx ++ [.lat])).takeFault causeOe j := by
  rw [show sliceBytes s.cfg + 2 = sliceBytes s.cfg + 1 + 1 from rfl, scanActions_add,
    scanActions_toLatch hs (by simp [ho]) (by simp [ho]), scanActions_one]
  rw [scanAction_enable (j := { j with pos := sliceBytes s.cfg + 2 }) rfl (by simp)]
  unfold scanEnable
  rw [if_pos ho]
  rfl

/-- Once the scanner is idle further actions do nothing. -/
theorem scanActions_of_le {s : State} {m n : Nat} (h : (scanActions m s).scan = none) (hle : m ≤ n) :
    scanActions n s = scanActions m s := by
  obtain ⟨k, rfl⟩ := Nat.exists_eq_add_of_le hle
  rw [scanActions_add, scanActions_of_none h]

end Sys2Proof.Machine
end

