-- ==== Sys2Proof/Laws/ScanStep.lean ====
section
/-! SUPPORT. One scan step from its first action to its last, in closed form: completed (42_scan.md R170, R177) or let down by the transport
(R173, 60_exceptions.md R256), for the sequencer's steps and for `SCANSTEP`. -/

namespace Sys2Proof.Machine

theorem State.answer_zero (s : State) : s.answer 0 = s.nextOutcome := rfl

/-- The next answers after one draw are the answers from the second on. -/
theorem State.answer_drawn (s : State) (k : Nat) : s.drawn.answer k = s.answer (k + 1) := by
  unfold State.answer State.drawn
  rw [List.drop_tail, Nat.add_right_comm]
  rfl

/-- An answer that is no failure lets every action of the step pass. -/
theorem not_failing {c : Config} {o : Transport} (h : failing c o = false) :
    (∀ i, i < sliceBytes c → o ≠ .txfail i) ∧ o ≠ .latfail ∧ o ≠ .oefail := by
  cases o <;> simp_all [failing]
  omega

/-- A step that has begun and whose answer is no failure is completed (R170). -/
theorem scanActions_rest_done {j : ScanJob} {s : State} (hs : s.scan = some { j with pos := 1 })
    (ho : failing s.cfg j.outcome = false) : scanActions (sliceBytes s.cfg + 2) s = stepDone j s := by
  obtain ⟨h1, h2, h3⟩ := not_failing ho
  rw [show sliceBytes s.cfg + 2 = sliceBytes s.cfg + 1 + 1 from rfl, scanActions_add, scanActions_toLatch hs h1 h2, scanActions_one]
  rw [scanAction_enable (j := { j with pos := sliceBytes s.cfg + 2 }) rfl (by simp)]
  have e (X : List Event) : s.emitAll (X ++ [.lat, .oe j.t]) = (s.emitAll (X ++ [.lat])).emit (.oe j.t) := by
    rw [List.append_cons, State.emitAll_append]; rfl
  unfold scanEnable stepDone ScanJob.next
  rw [if_neg h3]
  simp only [State.setScan_emit, State.setScan_advance, State.setScan_setScan, e]
  split <;> rfl

/-- A step that has begun and whose answer is a failure ends in the fault of R256. -/
theorem scanActions_rest_failed {j : ScanJob} {s u : State} (hs : s = (u.emit (.addr (addrCode u.cfg j.mux))).setScan (some { j with pos := 1 }))
    (ho : failing u.cfg j.outcome = true) :
    scanActions (sliceBytes u.cfg + 2) s =
      (u.emitAll (failedEvents u.cfg u.mem j.buf j.plane j.mux j.outcome)).takeFault (causeOf j.outcome) j := by
  subst hs
  obtain ⟨d, b, p, m, t, o, q, r⟩ := j
  cases o with
  | ok => cases ho
  | txfail k =>
    have hk : k < sliceBytes u.cfg := by simpa [failing] using ho
    have e := scanActions_rest_tx (j := ⟨d, b, p, m, t, .txfail k, q, r⟩)
      (s := (u.emit (.addr (addrCode u.cfg m))).setScan (some ⟨d, b, p, m, t, .txfail k, 1, r⟩)) rfl rfl hk
    simp only [State.emitAll_setScan] at e
    exact (scanActions_of_le (congrArg State.scan e) (by omega)).trans e
  | latfail =>
    have e := scanActions_rest_latch (j := ⟨d, b, p, m, t, .latfail, q, r⟩)
      (s := (u.emit (.addr (addrCode u.cfg m))).setScan (some ⟨d, b, p, m, t, .latfail, 1, r⟩)) rfl rfl
    simp only [State.emitAll_setScan] at e
    exact (scanActions_of_le (congrArg State.scan e) (Nat.le_succ _)).trans e
  | oefail =>
    have e := scanActions_rest_oe (j := ⟨d, b, p, m, t, .oefail, q, r⟩)
      (s := (u.emit (.addr (addrCode u.cfg m))).setScan (some ⟨d, b, p, m, t, .oefail, 1, r⟩)) rfl rfl
    simp only [State.emitAll_setScan] at e
    exact e

/-- The state in which the sequencer's step at the position is complete, up to the job (R170, R176, R177). -/
def State.stepped (s : State) (t : BitVec 16) : State :=
  (s.cycleStarted.drawn.emitAll (stepEvents s.cfg s.mem s.actbuf s.plane s.mux t)).advance

/-- The state in which the sequencer's step at the position has failed (R173, R256). -/
def State.stepFailed (s : State) (j : ScanJob) : State :=
  (s.cycleStarted.drawn.emitAll (failedEvents s.cfg s.mem s.actbuf s.plane s.mux s.nextOutcome)).takeFault (causeOf s.nextOutcome)
    { j with buf := s.actbuf, plane := s.plane, mux := s.mux }

/-- The sequencer's job once one of its steps is complete: nothing, or at the head of its next step (R175). -/
def ScanJob.nextSequenced (j : ScanJob) (s : State) : Option ScanJob :=
  match j.more with
  | 0 => none
  | n + 1 => some { j with buf := s.actbuf, plane := s.plane, mux := s.mux, outcome := s.nextOutcome, pos := 0, more := n }

/-- A whole step of the sequencer that the transport does not let down. -/
theorem scanActions_sequenced_done {j : ScanJob} {s : State} (hs : s.scan = some j) (hp : j.pos = 0) (hd : j.direct = false)
    (hst : s.scannerStopped = false) (ho : failing s.cfg s.nextOutcome = false) :
    scanActions (stepActions s.cfg) s = (s.stepped j.t).setScan (j.nextSequenced s) := by
  have hb : scanAction s = beginStep { j with buf := s.actbuf, plane := s.plane, mux := s.mux } s.cycleStarted := by
    rw [scanAction_begin hs hp]
    unfold scanBegin
    simp [hd, hst]
  rw [show stepActions s.cfg = 1 + (sliceBytes s.cfg + 2) by unfold stepActions; omega, scanActions_add, scanActions_one, hb]
  have e := scanActions_rest_done
    (j := { j with buf := s.actbuf, plane := s.plane, mux := s.mux, outcome := s.nextOutcome })
    (s := beginStep { j with buf := s.actbuf, plane := s.plane, mux := s.mux } s.cycleStarted)
    (by unfold beginStep; simp [State.nextOutcome]) (by simpa [beginStep] using ho)
  simp only [beginStep, State.setScan_cfg, State.emit_cfg, State.drawn_cfg, State.cycleStarted_cfg] at e ⊢
  rw [e]
  unfold stepDone State.stepped
  simp only [stepEvents, State.emitAll_cons, State.emitAll_setScan, State.setScan_advance, hd]
  simp only [State.setScan_cfg, State.emit_cfg, State.drawn_cfg, State.cycleStarted_cfg, State.setScan_mem, State.emit_mem, State.drawn_mem,
    State.cycleStarted_mem, ScanJob.next, ScanJob.nextSequenced, hd]
  cases j.more <;> rfl

/-- A step of the sequencer that the transport lets down. -/
theorem scanActions_sequenced_failed {j : ScanJob} {s : State} (hs : s.scan = some j) (hp : j.pos = 0) (hd : j.direct = false)
    (hst : s.scannerStopped = false) (ho : failing s.cfg s.nextOutcome = true) :
    scanActions (stepActions s.cfg) s = s.stepFailed j := by
  have hb : scanAction s = beginStep { j with buf := s.actbuf, plane := s.plane, mux := s.mux } s.cycleStarted := by
    rw [scanAction_begin hs hp]
    unfold scanBegin
    simp [hd, hst]
  rw [show stepActions s.cfg = 1 + (sliceBytes s.cfg + 2) by unfold stepActions; omega, scanActions_add, scanActions_one, hb]
  have e := scanActions_rest_failed
    (j := { j with buf := s.actbuf, plane := s.plane, mux := s.mux, outcome := s.nextOutcome })
    (s := beginStep { j with buf := s.actbuf, plane := s.plane, mux := s.mux } s.cycleStarted) (u := s.cycleStarted.drawn)
    (by unfold beginStep; simp [State.nextOutcome]) (by simpa using ho)
  simp only [State.drawn_cfg, State.cycleStarted_cfg] at e
  rw [e]
  simp only [State.drawn_mem, State.cycleStarted_mem]
  rfl

/-- A `SCANSTEP`'s step that the transport does not let down. -/
theorem scanActions_direct_done {j : ScanJob} {s : State} (hs : s.scan = some j) (hp : j.pos = 0) (hd : j.direct = true)
    (hm : j.more = 0) (ho : failing s.cfg s.nextOutcome = false) :
    scanActions (stepActions s.cfg) s =
      (s.drawn.emitAll (stepEvents s.cfg s.mem j.buf j.plane j.mux j.t)).setScan none := by
  have hb : scanAction s = beginStep j s := by
    rw [scanAction_begin hs hp]
    unfold scanBegin
    simp [hd]
  rw [show stepActions s.cfg = 1 + (sliceBytes s.cfg + 2) by unfold stepActions; omega, scanActions_add, scanActions_one, hb]
  have e := scanActions_rest_done (j := { j with outcome := s.nextOutcome }) (s := beginStep j s)
    (by unfold beginStep; simp) (by simpa [beginStep] using ho)
  simp only [beginStep, State.setScan_cfg, State.emit_cfg, State.drawn_cfg] at e ⊢
  rw [e]
  unfold stepDone
  simp only [stepEvents, State.emitAll_cons, State.emitAll_setScan, State.setScan_setScan, hd, if_true]
  simp only [State.setScan_cfg, State.emit_cfg, State.drawn_cfg, State.setScan_mem, State.emit_mem, State.drawn_mem, ScanJob.next, hm]

/-- A `SCANSTEP`'s step that the transport lets down. -/
theorem scanActions_direct_failed {j : ScanJob} {s : State} (hs : s.scan = some j) (hp : j.pos = 0) (hd : j.direct = true)
    (ho : failing s.cfg s.nextOutcome = true) :
    scanActions (stepActions s.cfg) s =
      (s.drawn.emitAll (failedEvents s.cfg s.mem j.buf j.plane j.mux s.nextOutcome)).takeFault (causeOf s.nextOutcome) j := by
  have hb : scanAction s = beginStep j s := by
    rw [scanAction_begin hs hp]
    unfold scanBegin
    simp [hd]
  rw [show stepActions s.cfg = 1 + (sliceBytes s.cfg + 2) by unfold stepActions; omega, scanActions_add, scanActions_one, hb]
  have e := scanActions_rest_failed (j := { j with outcome := s.nextOutcome }) (s := beginStep j s) (u := s.drawn)
    (by unfold beginStep; simp) (by simpa using ho)
  simp only [State.drawn_cfg] at e
  rw [e]
  simp only [State.drawn_mem]
  rfl

theorem State.setScan_cycleStarted (s : State) (x : Option ScanJob) : (s.setScan x).cycleStarted = s.cycleStarted.setScan x := by
  have e : (s.setScan x).atCycleStart = s.atCycleStart := rfl
  unfold State.cycleStarted
  rw [e]
  split <;> rfl

theorem State.setScan_drawn (s : State) (x : Option ScanJob) : (s.setScan x).drawn = s.drawn.setScan x := rfl

theorem State.setScan_takeFault (s : State) (x : Option ScanJob) (c : BitVec 3) (j : ScanJob) :
    (s.setScan x).takeFault c j = s.takeFault c j := rfl

theorem State.setScan_stepped (s : State) (x : Option ScanJob) (t : BitVec 16) : (s.setScan x).stepped t = (s.stepped t).setScan x := by
  unfold State.stepped
  rw [State.setScan_cycleStarted, State.setScan_drawn, State.emitAll_setScan, State.setScan_advance]
  rfl

theorem State.setScan_stepFailed (s : State) (x : Option ScanJob) (j : ScanJob) : (s.setScan x).stepFailed j = s.stepFailed j := by
  unfold State.stepFailed
  rw [State.setScan_cycleStarted, State.setScan_drawn, State.emitAll_setScan, State.setScan_takeFault]
  rfl

theorem State.setScan_none {s : State} (h : s.scan = none) : s.setScan none = s := by
  rw [← h]; rfl

theorem State.Running.rp_pos {s : State} (h : s.Running) : 4 ≤ s.cfg.rp ∧ s.cfg.rp ≤ 32 := legal_rp_bounds h.1

theorem State.Running.scannerStopped {s : State} (h : s.Running) : s.scannerStopped = false := by
  simp [State.scannerStopped, h.2.2.1, h.2.2.2]

/-- The slice at the sequencer's position exists (R72). -/
theorem State.PositionInv.sliceExists {s : State} (h : s.PositionInv) : sliceExists s.cfg s.plane.toNat s.mux.toNat = true :=
  sliceExists_of_lt s.plane.isLt h.2

/-- `TICK` and `STEP` as the actions of their job, in a scanner that runs and is idle (R175, R176). -/
theorem scanSteps_running {s : State} (h : s.Running) (hi : s.ScannerIdle) (k : Nat) :
    scanSteps (k + 1) s =
      .next (scanActions (stepActions s.cfg + k * stepActions s.cfg) (s.setScan (some (sequencedJob s k)))) := by
  have hx : sliceExists s.cfg s.plane.toNat s.mux.toNat = true := State.PositionInv.sliceExists ⟨h.1, h.2.1⟩
  unfold scanSteps
  simp only
  unfold startScanner runScanner
  rw [hi.2]
  simp only [Bool.false_eq_true, if_false, State.setScan_scan]
  rw [if_pos (by simp [ScanJob.readsExist, sequencedJob, hx])]
  rfl

/-- A `STEP` that the transport does not let down (R176, R170, R177). -/
theorem execStep_done {s : State} (h : s.Running) (hi : s.ScannerIdle) (ho : failing s.cfg s.nextOutcome = false) :
    execStep s = .next (s.stepped s.ontime) := by
  unfold execStep
  rw [gatedScan_open h.scannerStopped hi.1, scanSteps_running h hi, Nat.zero_mul, Nat.add_zero]
  have e := scanActions_sequenced_done (j := sequencedJob s 0) (s := s.setScan (some (sequencedJob s 0))) rfl rfl rfl h.scannerStopped ho
  rw [show stepActions s.cfg = stepActions (s.setScan (some (sequencedJob s 0))).cfg from rfl, e]
  rw [State.setScan_stepped, State.setScan_setScan]
  refine congrArg _ (Eq.trans ?_ (congrArg (fun u : State => u.stepped s.ontime) (State.setScan_none hi.1)))
  exact (State.setScan_stepped _ _ _).symm

/-- A `STEP` that the transport lets down (R173, R256). -/
theorem execStep_failed {s : State} (h : s.Running) (hi : s.ScannerIdle) (ho : failing s.cfg s.nextOutcome = true) :
    execStep s = .next (s.stepFailed (sequencedJob s 0)) := by
  unfold execStep
  rw [gatedScan_open h.scannerStopped hi.1, scanSteps_running h hi, Nat.zero_mul, Nat.add_zero]
  have e := scanActions_sequenced_failed (j := sequencedJob s 0) (s := s.setScan (some (sequencedJob s 0))) rfl rfl rfl h.scannerStopped ho
  rw [show stepActions s.cfg = stepActions (s.setScan (some (sequencedJob s 0))).cfg from rfl, e]
  rw [State.setScan_stepFailed]

/-- A `SCANSTEP` that is not rejected, as the actions of its job, in a scanner that is idle (R181). -/
theorem execScanstep_running {buf : BufNo} {plane : BitVec 3} {mux : BitVec 5} {t : BitVec 16} {s : State} (hr : s.run = false)
    (hf : s.fault = false) (hi : s.ScannerIdle) (hm : mux.toNat < s.cfg.rp) :
    execScanstep buf plane mux t s =
      .next (scanActions (stepActions s.cfg) (s.setScan (some (directJob buf plane mux t)))) := by
  have hx : sliceExists s.cfg plane.toNat mux.toNat = true := sliceExists_of_lt plane.isLt hm
  unfold execScanstep
  rw [if_neg (by simp [hr, WellFormed.muxInRange, hm]), gatedScan_open hf hi.1]
  unfold startScanner runScanner
  rw [hi.2]
  simp only [Bool.false_eq_true, if_false, State.setScan_scan]
  rw [if_pos (by simp [ScanJob.readsExist, directJob, hx])]
  have : (directJob buf plane mux t).actionsLeft s.cfg = stepActions s.cfg := by
    simp [ScanJob.actionsLeft, directJob]
  rw [this]

/-- Sending bytes moves no pin but `SDO`. -/
theorem pins_after_tx (p : Pins) (l : List Byte) :
    ((l.map Event.tx).foldl Pins.after p).a = p.a ∧ ((l.map Event.tx).foldl Pins.after p).lat = p.lat ∧
    ((l.map Event.tx).foldl Pins.after p).oe = p.oe ∧ ((l.map Event.tx).foldl Pins.after p).pwrEn = p.pwrEn := by
  induction l generalizing p with
  | nil => exact ⟨rfl, rfl, rfl, rfl⟩
  | cons b l ih => simpa [Pins.after] using ih (p.after (.tx b))

/-- The pins after a completed scan step (R40, R171). -/
theorem pins_after_step (p : Pins) (c : Config) (m : Memory) (b : BufNo) (q : BitVec 3) (x : BitVec 5) (t : BitVec 16) :
    ((stepEvents c m b q x t).foldl Pins.after p).a = addrCode c x ∧ ((stepEvents c m b q x t).foldl Pins.after p).lat = false ∧
    ((stepEvents c m b q x t).foldl Pins.after p).oe = false ∧ ((stepEvents c m b q x t).foldl Pins.after p).pwrEn = p.pwrEn := by
  have h := pins_after_tx (p.after (.addr (addrCode c x))) (wireBytes c m b q.toNat x.toNat)
  simp only [stepEvents, List.foldl_cons, List.foldl_append, List.foldl_nil]
  exact ⟨h.1, rfl, rfl, h.2.2.2⟩

/-- What a completed step keeps (R270): all that belongs to the writer, and the fault record. -/
theorem State.stepped_keeps (s : State) (t : BitVec 16) :
    ScanKeeps s (s.stepped t) ∧ (s.stepped t).scan = s.scan ∧ (s.stepped t).fault = s.fault ∧ (s.stepped t).fcause = s.fcause ∧
    (s.stepped t).fplane = s.fplane ∧ (s.stepped t).fmux = s.fmux ∧ (s.stepped t).fbuf = s.fbuf ∧
    (s.stepped t).oracle = s.oracle.tail ∧ (s.stepped t).draws = s.draws + 1 := by
  unfold State.stepped
  refine ⟨?_, ?_⟩
  · constructor <;> simp [State.emitAll_eq]
  · simp [State.emitAll_eq]

/-- The three ways the position moves (R177): along a plane, to the next plane, or over the cycle boundary (R178). -/
theorem State.stepped_cases {s : State} (h : s.Running) (t : BitVec 16) :
    (s.mux.toNat < s.cfg.rp - 1 ∧ s.stepped t =
      { s.cycleStarted.drawn.emitAll (stepEvents s.cfg s.mem s.actbuf s.plane s.mux t) with mux := s.mux + 1 }) ∨
    (s.mux.toNat = s.cfg.rp - 1 ∧ s.plane.toNat < 7 ∧ s.stepped t =
      { s.cycleStarted.drawn.emitAll (stepEvents s.cfg s.mem s.actbuf s.plane s.mux t) with mux := 0, plane := s.plane + 1 }) ∨
    (s.mux.toNat = s.cfg.rp - 1 ∧ s.plane = 7 ∧ s.stepped t =
      { s.cycleStarted.drawn.emitAll (stepEvents s.cfg s.mem s.actbuf s.plane s.mux t) with mux := 0, plane := 0 }.cycleBoundary) := by
  have hr := h.rp_pos
  have hm := h.2.1
  have e1 (es : List Event) : (s.cycleStarted.drawn.emitAll es).mux = s.mux := by simp [State.emitAll_eq]
  have e2 (es : List Event) : (s.cycleStarted.drawn.emitAll es).plane = s.plane := by simp [State.emitAll_eq]
  unfold State.stepped State.advance
  simp only [e1, e2, State.emitAll_cfg, State.drawn_cfg, State.cycleStarted_cfg]
  split
  · rename_i h'; exact .inl ⟨h', rfl⟩
  · right
    split
    · rename_i h1 h2; exact .inl ⟨by omega, h2, rfl⟩
    · rename_i h1 h2
      have := s.plane.isLt
      exact .inr ⟨by omega, BitVec.eq_of_toNat_eq (by simp; omega), rfl⟩

/-- A completed or failed step has cleared `SWAPRDY` only at the start of a cycle (R26). -/
theorem State.atCycleStart_iff (s : State) : s.atCycleStart = true ↔ s.plane = 0 ∧ s.mux = 0 := by
  simp [State.atCycleStart]

end Sys2Proof.Machine
end

