-- ==== Sys2Proof/Laws/Step.lean ====
section
/-! SUPPORT. What a step can do, said once: a property that the machine's named updates keep is kept by every step. -/

namespace Sys2Proof.Machine

/-- Every action of a job leaves it shorter, or ends it. -/
theorem scanAction_shorter {s : State} {j : ScanJob} (h : s.scan = some j) :
    (scanAction s).scan = none ∨ ∃ j', (scanAction s).scan = some j' ∧ j'.actionsLeft s.cfg < j.actionsLeft s.cfg := by
  unfold scanAction
  rw [h]
  simp only
  by_cases h0 : j.pos = 0
  · rw [if_pos h0]
    unfold scanBegin beginStep
    split
    · right; refine ⟨_, rfl, ?_⟩
      simp only [ScanJob.actionsLeft, stepActions, h0]; omega
    · split
      · left; rfl
      · right; refine ⟨_, rfl, ?_⟩
        simp only [ScanJob.actionsLeft, stepActions, h0]; omega
  · rw [if_neg h0]
    split
    · unfold scanByte
      split
      · left; rfl
      · right; refine ⟨_, rfl, ?_⟩
        simp only [ScanJob.actionsLeft, stepActions]; omega
    · split
      · unfold scanLatch
        split
        · left; rfl
        · right; refine ⟨_, rfl, ?_⟩
          simp only [ScanJob.actionsLeft, stepActions]; omega
      · have hn : j.next = none ∨ ∃ j', j.next = some j' ∧ j'.actionsLeft s.cfg < j.actionsLeft s.cfg := by
          unfold ScanJob.next
          split
          · left; rfl
          · rename_i n hm
            split
            · left; rfl
            · right; refine ⟨_, rfl, ?_⟩
              have e : (n + 1) * (sliceBytes s.cfg + 3) = n * (sliceBytes s.cfg + 3) + (sliceBytes s.cfg + 3) := Nat.succ_mul _ _
              simp only [ScanJob.actionsLeft, stepActions, hm, Nat.succ_eq_add_one, e, Nat.zero_min]
              omega
        unfold scanEnable
        split
        · left; rfl
        · split <;> simpa using hn

/-- As many actions as the job has left end it. -/
theorem scanActions_end {n : Nat} {s : State} (h : ∀ j, s.scan = some j → j.actionsLeft s.cfg ≤ n) : (scanActions n s).scan = none := by
  induction n generalizing s with
  | zero =>
    cases hs : s.scan with
    | none => exact hs
    | some j =>
      rcases scanAction_shorter hs with h' | ⟨j', _, hlt⟩
      · have h0 := h j hs
        simp only [ScanJob.actionsLeft, stepActions] at h0
        omega
      · have := h j hs; omega
  | succ n ih =>
    refine ih fun j' hj' => ?_
    cases hs : s.scan with
    | none => rw [scanAction_of_none hs, hs] at hj'; cases hj'
    | some j =>
      rw [(scanAction_keeps s).cfg]
      rcases scanAction_shorter hs with h' | ⟨j'', h', hlt⟩
      · rw [h'] at hj'; cases hj'
      · rw [h'] at hj'; cases hj'
        have := h j hs; omega

/-- Once the job in progress is finished the scanner is idle. -/
theorem finishScanner_idle {s t : State} (h : finishScanner s = .next t) : t.scan = none := by
  unfold finishScanner at h
  split at h
  · rename_i hs; cases h; exact hs
  · rename_i j hs
    rw [runScanner_next h]
    exact scanActions_end fun j' hj' => by rw [hs] at hj'; cases hj'; exact Nat.le_refl _

/-- The machine's named updates, each of which keeps the property `P`. -/
structure Kept (P : State → Prop) : Prop where
  action : ∀ s, P s → P (scanAction s)
  sequenced : ∀ s k, P s → s.scan = none → s.scannerStopped = false → P (s.setScan (some (sequencedJob s k)))
  direct : ∀ s buf plane mux t, P s → s.scan = none → s.run = false → s.fault = false → mux.toNat < s.cfg.rp →
    P (s.setScan (some (directJob buf plane mux t)))
  writes : ∀ s n, P s → P (s.writes n)
  owes : ∀ s ws, P s → P { s with wq := s.wq ++ ws }
  accept : ∀ s b, P s → P (s.accept b)
  consumed : ∀ s, P s → P s.consumed
  commandError : ∀ s, P s → P s.commandError
  respond : ∀ s v, P s → P (s.respond v)
  selbuf : ∀ s which, P s → P { s with wrbuf := which }
  setont : ∀ s us, P s → P { s with ontime := us }
  grant : ∀ s, P s → s.swaprdy = true → P { s with selbufR := ~~~s.selbufR }
  pend : ∀ s, P s → s.swaprdy = false → P { s with swappend := true }
  timeout : ∀ s, P s → P { s with swappend := false }
  powerOn : ∀ s, P s → P ({ s with run := true }.emit (.pwr true))
  powerOff : ∀ s, P s → P ({ s with run := false, scan := s.scan.bind ScanJob.powerOff }.emit (.pwr false))

section
variable {P : State → Prop} (K : Kept P)
include K

theorem Kept.scanActions (n : Nat) {s : State} (h : P s) : P (scanActions n s) := by
  induction n generalizing s with
  | zero => exact h
  | succ n ih => exact ih (K.action s h)

theorem Kept.runScanner {n : Nat} {s t : State} (h : P s) (hr : runScanner n s = .next t) : P t :=
  runScanner_next hr ▸ K.scanActions n h

theorem Kept.finishScanner {s t : State} (h : P s) (hr : finishScanner s = .next t) : P t := by
  obtain ⟨n, rfl⟩ := finishScanner_next hr
  exact K.scanActions n h

theorem Kept.runWriter {n : Nat} {s t : State} (h : P s) (hr : runWriter n s = .next t) : P t := by
  unfold Machine.runWriter at hr
  split at hr <;> cases hr
  exact K.writes s n h

theorem Kept.afterScanner {k : State → Host.Outcome State Fault Refusal} {s t : State} (h : P s)
    (hk : ∀ u, P u → u.scan = none → ScanKeeps s u → k u = .next t → P t) (hr : afterScanner k s = .next t) : P t := by
  unfold Machine.afterScanner at hr
  split at hr
  · rename_i u hu
    refine hk u (K.finishScanner h hu) (finishScanner_idle hu) ?_ hr
    obtain ⟨n, rfl⟩ := finishScanner_next hu
    exact scanActions_keeps n s
  · cases hr
  · cases hr

theorem Kept.startScanner {j : ScanJob} {s t : State} (h : P (s.setScan (some j))) (hr : startScanner j s = .next t) : P t := by
  obtain ⟨n, rfl⟩ := startScanner_next hr
  exact K.scanActions n h

theorem Kept.gatedScan {closed : State → Bool} {k : State → Host.Outcome State Fault Refusal} {s t : State} (h : P s)
    (hk : ∀ u, P u → u.scan = none → ScanKeeps s u → closed u = false → k u = .next t → P t) (hr : gatedScan closed k s = .next t) :
    P t := by
  unfold Machine.gatedScan at hr
  split at hr
  · cases hr; exact h
  · refine K.afterScanner h (fun u hu hn hkeep hr => ?_) hr
    split at hr
    · cases hr; exact hu
    · rename_i hc; exact hk u hu hn hkeep (by simpa using hc) hr

theorem Kept.scanSteps {n : Nat} {s t : State} (h : P s) (hs : s.scan = none) (hst : s.scannerStopped = false)
    (hr : scanSteps n s = .next t) : P t := by
  rcases scanSteps_next hr with rfl | ⟨k, m, rfl⟩
  · exact h
  · exact K.scanActions m (K.sequenced s k h hs hst)

theorem Kept.writePixel {tb : BufNo} {x y : BitVec 16} {r g b : BitVec 8} {s t : State} (h : P s)
    (hr : writePixel tb x y r g b s = .next t) : P t := by
  unfold Machine.writePixel at hr
  simp only at hr
  split at hr
  · unfold startWriter at hr
    split at hr
    · cases hr; exact K.owes s _ h
    · exact K.runWriter (K.owes s _ h) hr
  · cases hr; exact h

/-- A property the named updates keep is kept by every operation. -/
theorem Kept.exec {i : Instr} {s t : State} (h : P s) (hr : exec i s = .next t) : P t := by
  cases i with
  | nop => cases hr; exact h
  | setpx x y r g b => exact K.writePixel h hr
  | setpxb x y r g b t => exact K.writePixel h hr
  | selbuf which => cases hr; exact K.selbuf s which h
  | swap =>
    change execSwap s = _ at hr
    unfold execSwap at hr
    split at hr
    · rename_i hs; cases hr; exact K.respond _ 0 (K.grant s h hs)
    · rename_i hs; cases hr; exact K.pend s h (by simpa using hs)
  | setont us => cases hr; exact K.setont s us h
  | power on =>
    change execPower on s = _ at hr
    unfold execPower at hr
    split at hr <;> cases hr
    · exact K.powerOn s h
    · exact K.powerOff s h
  | rdreg n =>
    change execRdreg n s = _ at hr
    unfold execRdreg at hr
    split at hr <;> cases hr
    · exact K.respond s _ h
    · exact K.respond _ 0 (K.commandError s h)
  | tick => exact K.gatedScan h (fun u hu hn _ hc hk => K.scanSteps hu hn hc hk) hr
  | step => exact K.gatedScan h (fun u hu hn _ hc hk => K.scanSteps hu hn hc hk) hr
  | scanstep buf plane mux ot =>
    change execScanstep buf plane mux ot s = _ at hr
    unfold execScanstep at hr
    split at hr
    · cases hr; exact K.commandError s h
    · rename_i hc
      simp only [Bool.or_eq_true, Bool.not_eq_true', not_or, Bool.not_eq_true, WellFormed.muxInRange] at hc
      refine K.gatedScan h (fun u hu hn hkeep hf hk => ?_) hr
      refine K.startScanner (K.direct u buf plane mux ot hu hn (hkeep.run.trans hc.1) hf ?_) hk
      rw [hkeep.cfg]
      simpa using hc.2
  | swtmo =>
    change execSwtmo s = _ at hr
    unfold execSwtmo at hr
    split at hr <;> cases hr
    · exact K.respond _ 1 (K.timeout s h)
    · exact h

/-- A property the named updates and a restart keep is kept by every step. -/
theorem Kept.step {s t : State} (h : P s) (hr : step s = .next t)
    (hrestart : ∀ i0 i1 rest, s.inputs = .restart i0 i1 :: rest → P s.consumed → P (s.consumed.restarted i0 i1)) : P t := by
  unfold Machine.step at hr
  split at hr
  · split at hr
    · cases hr; exact h
    · unfold stepWord at hr
      split at hr
      · cases hr
      · unfold finishWriter at hr
        split at hr
        · exact K.finishScanner h hr
        · exact K.runWriter h hr
      · split at hr
        · exact K.exec (K.accept s _ h) hr
        · cases hr; exact K.commandError _ (K.accept s _ h)
    · exact K.runWriter (K.consumed s h) hr
    · exact K.runScanner (K.consumed s h) hr
    · rename_i hi; cases hr; exact hrestart _ _ _ hi (K.consumed s h)
  · cases hr

end

end Sys2Proof.Machine
end

