-- ==== Sys2Proof/Machine/Assembler.lean ====
section
/-! DEFINITION. The assembler's syntax, one operation per line (30_encoding.md R110). -/

namespace Sys2Proof.Machine

/-- The value of a digit in a base up to 16. -/
def digitValue (base : Nat) (ch : Char) : Option Nat :=
  let n := ch.toNat
  let v :=
    if 48 ≤ n ∧ n ≤ 57 then n - 48
    else if 97 ≤ n ∧ n ≤ 102 then n - 87
    else if 65 ≤ n ∧ n ≤ 70 then n - 55
    else 16
  if v < base then some v else none

/-- The number of a run of digits, after `acc`. -/
def digits (base : Nat) : Nat → List Char → Option Nat
  | acc, [] => some acc
  | acc, ch :: l =>
    match digitValue base ch with
    | some v => digits base (acc * base + v) l
    | none => none

/-- A number, decimal or `0x` hexadecimal, with a leading `-` where it is negative (R110). The case of hexadecimal digits and a `-` before
`0x` or before 0 are settled here (DESIGN CHOICE, log 20). -/
def number : List Char → Option Int
  | '-' :: '0' :: 'x' :: ch :: l => (digits 16 0 (ch :: l)).map fun n => -(n : Int)
  | '-' :: ch :: l => (digits 10 0 (ch :: l)).map fun n => -(n : Int)
  | '0' :: 'x' :: ch :: l => (digits 16 0 (ch :: l)).map fun n => (n : Int)
  | ch :: l => (digits 10 0 (ch :: l)).map fun n => (n : Int)
  | [] => none

/-- The parts between commas. -/
def splitCommas : List Char → List Char → List (List Char)
  | part, [] => [part.reverse]
  | part, ',' :: l => part.reverse :: splitCommas [] l
  | part, ch :: l => splitCommas (ch :: part) l

/-- An unsigned operand of `n` bits (R98); a number that it cannot hold makes no operation (DESIGN CHOICE, log 20). -/
def operand (n : Nat) (v : Int) : Option (BitVec n) :=
  if 0 ≤ v ∧ v < 2 ^ n then some (BitVec.ofInt n v) else none

/-- A coordinate, signed 16 bits (R98); a number that it cannot hold makes no operation (DESIGN CHOICE, log 20). -/
def coordinate (v : Int) : Option (BitVec 16) :=
  if -32768 ≤ v ∧ v ≤ 32767 then some (BitVec.ofInt 16 v) else none

/-- The operation of a mnemonic and its operands in the order of R99. -/
def assembleParts (mnemonic : List Char) (ops : List Int) : Option Instr :=
  match mnemonic, ops with
  | ['N', 'O', 'P'], [] => some .nop
  | ['S', 'E', 'T', 'P', 'X'], [x, y, r, g, b] => do
    return .setpx (← coordinate x) (← coordinate y) (← operand 8 r) (← operand 8 g) (← operand 8 b)
  | ['S', 'E', 'T', 'P', 'X', 'B'], [x, y, r, g, b, t] => do
    return .setpxb (← coordinate x) (← coordinate y) (← operand 8 r) (← operand 8 g) (← operand 8 b) (← operand 1 t)
  | ['S', 'E', 'L', 'B', 'U', 'F'], [which] => do return .selbuf (← operand 1 which)
  | ['S', 'W', 'A', 'P'], [] => some .swap
  | ['S', 'E', 'T', 'O', 'N', 'T'], [us] => do return .setont (← operand 16 us)
  | ['P', 'O', 'W', 'E', 'R'], [on] => do return .power (← operand 1 on)
  | ['R', 'D', 'R', 'E', 'G'], [n] => do return .rdreg (← operand 3 n)
  | ['T', 'I', 'C', 'K'], [] => some .tick
  | ['S', 'T', 'E', 'P'], [] => some .step
  | ['S', 'C', 'A', 'N', 'S', 'T', 'E', 'P'], [buf, plane, mux, t] => do
    return .scanstep (← operand 1 buf) (← operand 3 plane) (← operand 5 mux) (← operand 16 t)
  | ['S', 'W', 'T', 'M', 'O'], [] => some .swtmo
  | _, _ => none

/-- The text without the spaces at its two ends. -/
def trimSpaces (l : List Char) : List Char :=
  ((l.dropWhile (· == ' ')).reverse.dropWhile (· == ' ')).reverse

/-- One line of assembly (R110): the mnemonic, its operands between commas, and from a `;` on a comment; no value where the line is no
operation. R110 does not say where spaces may stand: here at the ends of the line and of each operand and after the mnemonic, and nowhere
inside the mnemonic or an operand. DESIGN CHOICE (log 20). -/
def assemble (line : List Char) : Option Instr :=
  let text := trimSpaces (line.takeWhile (· != ';'))
  let mnemonic := text.takeWhile (· != ' ')
  let rest := trimSpaces (text.dropWhile (· != ' '))
  if rest.isEmpty then assembleParts mnemonic []
  else do assembleParts mnemonic (← (splitCommas [] rest).mapM fun part => number (trimSpaces part))

end Sys2Proof.Machine
end

