-- ==== Sys2Proof/Tests/Slice0.lean ====
section
/-! SUPPORT. Tests: each expected value is written out from spec/95_test_vectors.md or from the rule named; and for every statement with hypotheses
a state and operands that meet them, at the boundaries of its clauses. -/

namespace Sys2Proof.Tests

open Sys2Proof.Machine

/-! Helpers: the 8 x 4, RP = 4 panel of the vectors, with zero buffers. -/

/-- The configuration `8x4/4` of 95_test_vectors.md. -/
def panel : Config := Config.standard 8 4 4 .binary .linear false

/-- The configuration `32x16/8`. -/
def panel32 : Config := Config.standard 32 16 8 .binary .linear false

/-- `8x4/4`, rotated. -/
def panelRotated : Config := Config.standard 8 4 4 .binary .linear true

/-- Reset with both buffers zero. -/
def blank : State := State.powerUp panel 0 (List.replicate 96 0) (List.replicate 96 0)

/-- The timer started, on-time 50, with the transport's answers given. -/
def running (answers : List Transport) : State := { blank with run := true, ontime := 50, oracle := answers }

/-- The scanner at a position. -/
def at_ (s : State) (plane : BitVec 3) (mux : BitVec 5) : State := { s with plane := plane, mux := mux }

/-- A check of the next state, false where there is none. -/
def check (o : Host.Outcome State Fault Refusal) (f : State → Bool) : Bool :=
  match o with
  | .next s => f s
  | .fault _ => false
  | .refused _ => false

/-- The refusal a step answers, none where it answers none. -/
def refusal (o : Host.Outcome State Fault Refusal) : Option Refusal :=
  match o with
  | .next _ => none
  | .fault _ => none
  | .refused r => some r

/-- A word in front of an idle machine. -/
def withWord (s : State) (w : Word) : State := s.present w

/-! Well-formedness (R109): an ill-formed operation for each check -/

theorem test_wf_scanstep_mux_too_large : (Instr.scanstep 0 0 4 10).wellFormed panel = false := by decide
theorem test_wf_scanstep_mux_largest : (Instr.scanstep 0 7 3 10).wellFormed panel = true := by decide
theorem test_wf_rdreg_reserved : (Instr.rdreg 7).wellFormed panel = false := by decide
theorem test_wf_rdreg_largest : (Instr.rdreg 6).wellFormed panel = true := by decide

/-! Decoding: a word of every constructor, written out bit by bit from R97 to R99 -/

theorem test_decode_nop : decode 0b0000000000000000000000000000000000000000000000000000000000000000 = .ok .nop := by decide
theorem test_decode_setpx : decode 0b0001000000000000000111110000000000001111000010100001010000011110 = .ok (.setpx 31 15 10 20 30) := by decide
theorem test_decode_setpxb : decode 0b0010010000000000000000111111111111111111111111110000000000000000 = .ok (.setpxb 3 0xFFFF 0xFF 0 0 1) := by decide
theorem test_decode_selbuf : decode 0b0011000000000000000000000000000000000000000000000000000000000001 = .ok (.selbuf 1) := by decide
theorem test_decode_swap : decode 0b0100000000000000000000000000000000000000000000000000000000000000 = .ok .swap := by decide
theorem test_decode_setont : decode 0b0101000000000000000000000000000000000000000000000000100000110100 = .ok (.setont 2100) := by decide
theorem test_decode_power : decode 0b0110000000000000000000000000000000000000000000000000000000000001 = .ok (.power 1) := by decide
theorem test_decode_rdreg : decode 0b0111000000000000000000000000000000000000000000000000000000000110 = .ok (.rdreg 6) := by decide
theorem test_decode_tick : decode 0b1000000000000000000000000000000000000000000000000000000000000000 = .ok .tick := by decide
theorem test_decode_step : decode 0b1001000000000000000000000000000000000000000000000000000000000000 = .ok .step := by decide
theorem test_decode_scanstep : decode 0b1010000000000000000000000000000000000001000000110000000001100100 = .ok (.scanstep 1 0 3 100) := by decide
theorem test_decode_swtmo : decode 0b1011000000000000000000000000000000000000000000000000000000000000 = .ok .swtmo := by decide

/-- The illegal words of 95_test_vectors.md section 4. -/
theorem test_decode_illegal :
    decode 0xC000000000000000 = .error .reservedOpcode ∧ decode 0xF000000000000001 = .error .reservedOpcode ∧
    decode 0x0000000000000001 = .error (.zeroFieldSet "NOP") ∧ decode 0x1400000000FF0000 = .error (.zeroFieldSet "SETPX") ∧
    decode 0x2800000000FF0000 = .error (.zeroFieldSet "SETPXB") ∧ decode 0x3000000000000002 = .error (.zeroFieldSet "SELBUF") ∧
    decode 0x4000000000000001 = .error (.zeroFieldSet "SWAP") ∧ decode 0x5000000000010000 = .error (.zeroFieldSet "SETONT") ∧
    decode 0x7000000000000008 = .error (.zeroFieldSet "RDREG") ∧ decode 0xA000000002000000 = .error (.zeroFieldSet "SCANSTEP") := by
  decide

theorem test_encode_setpx : encode (.setpx 0xFFFF 0x8000 1 2 3) = 0x10FFFF8000010203 := by decide
theorem test_encode_scanstep : encode (.scanstep 0 7 31 65535) = 0xA000000000FFFFFF := by decide
theorem test_decodeTableWord : decodeTableWord 64 0x24000A00144DC810 = some (.setpxb 10 20 77 200 16 1) := by decide

/-- The example line of R110. -/
theorem test_assemble :
    assemble ['S', 'E', 'T', 'P', 'X', 'B', ' ', '3', ',', ' ', '-', '1', ',', ' ', '0', 'x', 'F', 'F', ',', ' ', '0', ',', ' ', '0', ',',
      ' ', '1', ' ', ';', 'x'] = some (.setpxb 3 0xFFFF 0xFF 0 0 1) := by decide

/-- Section 4 spells without spaces; a space inside a number, or after its sign, makes no operation (log 20). -/
theorem test_assemble_spaces :
    assemble ['S', 'E', 'T', 'O', 'N', 'T', ' ', '2', '1', '0', '0'] = some (.setont 2100) ∧
    assemble ['S', 'E', 'T', 'O', 'N', 'T', ' ', '1', ' ', '2'] = none ∧
    assemble ['S', 'E', 'T', 'P', 'X', ' ', '-', ' ', '1', ',', '0', ',', '0', ',', '0', ',', '0'] = none := by decide

/-! Sizes and operand forms (sections 2.1, 2.2, 6) -/

theorem test_sizes : sliceBytes panel32 = 24 ∧ planeBytes panel32 = 192 ∧ frameBytes panel32 = 1536 ∧ rowOffset panel32 7 = 191 := by decide

/-- Row (5,3) of section 2.2. -/
theorem test_offsets : transform panel32 5 3 = (26, 3) ∧ baseOffset panel32 26 3 .red = 92 ∧ baseOffset panel32 26 3 .green = 84 ∧
    baseOffset panel32 26 3 .blue = 76 ∧ bitIndex panel32 26 3 = 2 := by decide

/-- `ROTATE`: row (3,10) of section 2.2. -/
theorem test_rotate : transform { panel32 with rotate := true } 3 10 = (21, 12) := by decide

/-- `zigzag_revnibble`: rows (29,2) and (29,6) of section 2.2. -/
theorem test_mirror : bitIndex { panel32 with scanPattern := .zigzagRevnibble } 2 2 = 5 ∧
    bitIndex { panel32 with scanPattern := .zigzagRevnibble } 2 6 = 2 := by decide

theorem test_addrCode : addrCode panel 3 = 3 ∧ addrCode { panel with muxPattern := .straight } 3 = 8 := by decide

/-- Plane 0, address 3 of `8x4/4` is bytes 9 to 11, sent 11, 10, 9 (R181). -/
theorem test_txOffset : txOffset panel 0 3 0 = 11 ∧ txOffset panel 0 3 2 = 9 ∧ txOffset { panel with txOrder := .ascending } 0 3 0 = 9 := by
  decide

/-- An offset is compared without wrapping (section 2.4, offset -17 and 127). -/
theorem test_planeBit : planeBit { panel with redOffset := -17 } .red 0 0 = true ∧
    planeBit { panel with redOffset := 127 } .red 4 255 = false ∧ planeBit { panel with redOffset := 127 } .red 3 255 = true := by decide

theorem test_level : level 16 = 0 ∧ level 17 = 1 ∧ level 240 = 7 ∧ level 241 = 8 := by decide

/-- Section 3: bit 7 of relative offset 20 is panel (31,0) red, of relative offset 4 the same pixel's blue. -/
theorem test_pixelAt : pixelAt panel32 20 7 = (31, 0, .red) ∧ pixelAt panel32 4 7 = (31, 0, .blue) := by decide

/-! Operations, one step each -/

theorem test_nop : check (exec .nop blank) (fun t => t == blank) = true := by decide

/-- P1: `SETPX 0,0,255,128,40` sets bit 7 of bytes 2 and 25 and leaves byte 13 clear. -/
theorem test_setpx : check (exec (.setpx 0 0 255 128 40) blank) (fun t =>
    t.mem.read 0 2 == 0x80 && t.mem.read 0 25 == 0x80 && t.mem.read 0 13 == 0x00 && t.mem.read 1 2 == 0x00) = true := by decide

/-- Negative coordinates are dropped (section 2.5). -/
theorem test_setpx_negative : check (exec (.setpx 0xFFFF 0x8000 1 2 3) blank) (fun t => t == blank) = true := by decide

/-- P1: `SETPXB 5,2,100,255,0,0` with buffer 1 as the write target still writes buffer 0. -/
theorem test_setpxb : check (exec (.setpxb 5 2 100 255 0 0) { blank with wrbuf := 1 }) (fun t =>
    t.mem.read 0 8 == 0x04 && t.mem.read 0 44 == 0x00 && t.mem.read 0 7 == 0x04 && t.mem.cells1.isEmpty && t.wrbuf == 1) = true := by decide

/-- A write clears what was set, and an emptied byte is not listed (section 2.3). -/
theorem test_setpxb_clears : check (exec (.setpxb 0 0 255 128 40 0) blank) (fun t =>
    check (exec (.setpxb 0 0 0 0 0 0) t) (fun u => u.mem.cells0.isEmpty)) = true := by decide

theorem test_selbuf : check (exec (.selbuf 1) blank) (fun t => t.wrbuf == 1 && t.selbufR == 0) = true := by decide

theorem test_swap_granted : check (exec .swap { blank with swaprdy := true }) (fun t =>
    t.selbufR == 1 && t.swaprdy && t.actbuf == 0 && t.trace == [.rsp 0]) = true := by decide

theorem test_swap_pends : check (exec .swap blank) (fun t => t.swappend && t.selbufR == 0 && t.trace.isEmpty) = true := by decide

theorem test_setont : check (exec (.setont 2100) blank) (fun t => view t 4 == 0x834) = true := by decide

theorem test_power : check (exec (.power 1) blank) (fun t => t.pins.pwrEn && view t 5 == 0x80 && t.trace == [.pwr true]) = true := by decide

/-- R202: a `POWER 0` inside a `TICK` leaves it no further step. -/
theorem test_power_inside_tick : check (exec (.power 0) { running [] with scan := some (sequencedJob blank 3) }) (fun t => t.scan.isNone) = true := by
  decide

theorem test_rdreg : check (exec (.rdreg 0) { blank with cfg := panel32 }) (fun t => t.trace == [.rsp 0x00100020]) = true ∧
    view { blank with cfg := panel32 } 1 = 0x002A5008 := by decide

theorem test_rdreg_reserved : check (exec (.rdreg 7) blank) (fun t => t.cmderr && t.trace == [.rsp 0]) = true := by decide

/-- Section 7, oracle `ok`. -/
theorem test_step : check (exec .step (running [.ok])) (fun t =>
    t.trace == [.addr 0, .tx 0, .tx 0, .tx 0, .lat, .oe 50] && view t 5 == 0x880) = true := by decide

/-- Section 7, oracle `txfail(2)`. -/
theorem test_step_fails : check (exec .step (running [.txfail 2])) (fun t =>
    t.trace == [.addr 0, .tx 0, .tx 0] && view t 5 == 0xA0 && view t 6 == 1) = true := by decide

/-- The example of R175: from (7,0) the boundary shows the selected buffer. -/
theorem test_tick : check (exec .tick (at_ { running [.ok, .ok, .ok, .ok] with selbufR := 1 } 7 0)) (fun t =>
    t.trace.length == 24 && t.actbuf == 1 && t.swaprdy && t.plane == 0 && t.mux == 0) = true := by decide

/-- A fault in the second step ends the `TICK` there. -/
theorem test_tick_fails : check (exec .tick (running [.ok, .latfail])) (fun t =>
    t.trace.length == 10 && t.fault && t.mux == 1 && t.draws == 2) = true := by decide

/-- R174, R261: a stopped timer's `TICK` is lost, also with a scan step left in progress. -/
theorem test_tick_lost : check (exec .tick { running [.ok] with run := false, scan := some { sequencedJob blank 0 with pos := 1 } })
    (fun t => t == { running [.ok] with run := false, scan := some { sequencedJob blank 0 with pos := 1 } }) = true := by decide

/-- Section 6: `SCANSTEP 1,0,3,100`, byte 11 of buffer 1 being 0x81. -/
theorem test_scanstep : check (exec (.scanstep 1 0 3 100)
      { blank with cfg := { panel with muxPattern := .straight }, oracle := [.ok], mem := blank.mem.write 1 11 0x81 })
    (fun t => t.trace == [.addr 8, .tx 0x81, .tx 0, .tx 0, .lat, .oe 100]) = true := by decide

/-- Section 7: a fault in `SCANSTEP 1,2,3,5`. -/
theorem test_scanstep_fails : check (exec (.scanstep 1 2 3 5) { blank with oracle := [.txfail 1] }) (fun t =>
    view t 6 == 0x8D1 && t.plane == 0 && t.mux == 0) = true := by decide

theorem test_swtmo : check (exec .swtmo { blank with swappend := true }) (fun t => !t.swappend && t.trace == [.rsp 1]) = true := by decide

theorem test_swtmo_ignored : check (exec .swtmo blank) (fun t => t == blank) = true := by decide

/-! The step -/

theorem test_step_runs_word : check (step (blank.withFetchWord 64 0x3000000000000001)) (fun t => t.wrbuf == 1 && t.inputs.isEmpty) = true := by
  decide

theorem test_step_illegal_word : check (step (withWord blank 0x3000000000000002)) (fun t => t.cmderr && t.wrbuf == 0) = true := by decide

theorem test_step_restart : check (step { running [] with inputs := [.restart [7] []] }) (fun t =>
    !t.run && t.mem.read 0 0 == 7 && t.mem.launch == 1) = true := by decide

/-- R74: a held pixel write interleaved with turns. -/
theorem test_writer_turn : check (step { blank with inputs := [.word 0x1000000000FF8028 true] }) (fun t =>
    t.wq.length == 24 && check (step { t with inputs := [.writerTurn 3] }) (fun u => u.wq.length == 21 && u.mem.read 0 2 == 0x80)) = true := by
  decide

/-- R170: a turn of two actions begins the step and sends one byte. -/
theorem test_scanner_turn : check (step { running [.ok] with inputs := [.word 0x9000000000000000 true] }) (fun t =>
    check (step { t with inputs := [.scannerTurn 2] }) (fun u => u.trace == [.addr 0, .tx 0] && u.scan.isSome)) = true := by decide

/-- P5 of the vectors: the sixteen words' points; and a rectangle that no `SETPX` can name in full has only the points it can (log 19). -/
theorem test_fillrect : fillRect 2 2 4 4 10 20 30 = ((List.range 4).flatMap fun j => (List.range 4).map fun i =>
      .setpx (BitVec.ofNat 16 (2 + i)) (BitVec.ofNat 16 (2 + j)) 10 20 30) ∧
    fillRect 32767 0 2 1 1 2 3 = [.setpx 32767 0 1 2 3] := by decide

/-! Witnesses: for every statement with hypotheses, a state and operands that meet them -/

theorem test_witness_Running : (running [.ok]).Running ∧ (running [.ok]).ScannerIdle ∧ (running [.ok]).answer 0 = .ok := by
  unfold State.Running State.ScannerIdle; decide

theorem test_witness_DecodedWordIsItsEncoding : decode 0x500000000000FFFF = .ok (.setont 65535) := by decide

theorem test_witness_WordsOfARowAreItsOperation :
    ⟨"SCANSTEP", 0xFFFFFFFFFE000000, 0xA000000000000000⟩ ∈ opcodeMap ∧
    OpRow.covers ⟨"SCANSTEP", 0xFFFFFFFFFE000000, 0xA000000000000000⟩ 0xA000000001FFFFFF = true ∧
    OpRow.covers ⟨"SCANSTEP", 0xFFFFFFFFFE000000, 0xA000000000000000⟩ 0xA000000002000000 = false := by decide

theorem test_witness_IllegalWordsOnlySetCommandError :
    configLegal blank.cfg = true ∧ (withWord blank 0xC000000000000000).inputs = [.word 0xC000000000000000 false] ∧
    decode 0xC000000000000000 = .error .reservedOpcode ∧ 12 ≤ (opcode 0xC000000000000000).toNat ∧ 12 ≤ (opcode 0xFFFFFFFFFFFFFFFF).toNat ∧
    blank.swappend = false ∧ blank.writerBusy = false := by decide

theorem test_witness_StepRunsTheDecodedInstruction :
    configLegal blank.cfg = true ∧ decode 0x8000000000000000 = .ok .tick ∧ Instr.tick.issuer = .timer ∧
    decode 0 = .ok .nop ∧ blank.swappend = false ∧ blank.writerBusy = false := by decide

theorem test_witness_WriterWordIsRefusedWhileASwapPends :
    refusal (step (withWord { blank with swappend := true } 0)) = some .portClosed ∧ decode 0 = .ok .nop ∧ Instr.nop.issuer = .writer := by decide

theorem test_witness_WriterWordWaitsForThePixelInProgress :
    { blank with wq := [⟨0, 95, 7, true⟩] }.wq ≠ [] ∧ 95 < frameBytes blank.cfg ∧
    check (step (withWord { blank with wq := [⟨0, 95, 7, true⟩] } 0)) (fun t =>
      t.wq.isEmpty && t.inputs.length == 1 && t.mem.read 0 95 == 0x80) = true := by decide

theorem test_witness_IllegalConfigurationIsRefused :
    ¬ (Config.standard 20 16 8 .binary .linear false).w % 8 = 0 ∧
    ¬ (Config.standard 32 16 8 .straight .linear false).rp ≤ (Config.standard 32 16 8 .straight .linear false).nAddr ∧
    refusal (step { blank with cfg := { panel with nAddr := 16 } }) = some .illegalConfiguration := by decide

theorem test_witness_RdregAnswersTheView : (6 : BitVec 3).toNat ≤ 6 ∧ (0 : BitVec 3).toNat ≤ 6 ∧ (7 : BitVec 3) = 7 := by decide

theorem test_witness_SwapIsGrantedOrPends :
    { blank with swaprdy := true }.swaprdy = true ∧ blank.swaprdy = false ∧ { blank with swappend := true }.swappend = true := by decide

/-- A state one action before a cycle boundary, and one before it in a `STEP`. -/
theorem test_witness_ActbufChangesOnlyAtACycleBoundary :
    (scanAction { at_ (running []) 7 3 with selbufR := 1, scan := some { sequencedJob blank 0 with pos := 5 } }).actbuf = 1 ∧
    check (exec .step (at_ { running [.ok] with selbufR := 1 } 7 3)) (fun t => t.actbuf == 1) = true := by decide

/-- One action before the completion of step (7,3), a `SWAP` pending. -/
def beforeGrant : State := { at_ (running []) 7 3 with swappend := true, scan := some { sequencedJob (running []) 0 with pos := 5 } }

/-- The action itself; a `STEP`, and a `SCANSTEP` after `POWER 0`, in whose front the grant falls; a granted `SWAP`; a scanner's turn. -/
theorem test_witness_SelbufRChangesOnlyByAGrant :
    (scanAction beforeGrant).selbufR = 1 ∧
    check (exec .step (at_ { running [.ok] with swappend := true } 7 3)) (fun t => t.selbufR == 1 && !t.swappend) = true ∧
    check (exec (.scanstep 0 0 0 1) { beforeGrant with run := false, hold := true }) (fun t => t.selbufR == 1) = true ∧
    check (step (withWord { blank with swaprdy := true } 0x4000000000000000)) (fun t => t.selbufR == 1) = true ∧
    check (step { beforeGrant with inputs := [.scannerTurn 1] }) (fun t => t.selbufR == 1 && !t.swappend) = true := by decide

/-- Positions where the clauses of the statements about one `STEP` meet: the first, the last of a plane, the last of a cycle. -/
theorem test_witness_StepClauses :
    (at_ (running [.ok]) 0 0).Running ∧ (at_ (running [.ok]) 0 2).Running ∧ (2 : BitVec 5).toNat < panel.rp - 1 ∧
    (at_ (running [.ok]) 6 3).Running ∧ (at_ (running [.ok]) 7 2).Running ∧ (at_ (running [.ok]) 7 3).Running ∧
    (3 : BitVec 5).toNat = panel.rp - 1 ∧ (at_ (running [.ok]) 7 3).ScannerIdle := by
  unfold State.Running State.ScannerIdle; decide

theorem test_witness_CycleBoundaryShowsAndGrants :
    (at_ { running [.ok] with swappend := true } 7 3).Running ∧ (at_ { running [.ok] with swappend := true } 7 3).ScannerIdle ∧
    (at_ { running [.ok] with swappend := true } 7 3).answer 0 = .ok := by
  unfold State.Running State.ScannerIdle; decide

theorem test_witness_FailedStepTakesTheTransportFault :
    failing panel (.txfail 0) = true ∧ failing panel (.txfail 2) = true ∧ failing panel (.txfail 3) = false ∧ failing panel .latfail = true ∧
    failing panel .oefail = true ∧ (running [.oefail]).Running ∧ (running [.oefail]).answer 0 = .oefail := by
  unfold State.Running; decide

/-- With nothing in progress and with a scan step left by `POWER 0`. -/
theorem test_witness_StoppedScannerDoesNothing :
    blank.run = false ∧ { beforeGrant with run := false }.run = false ∧ { blank with fault := true }.fault = true ∧ (3 : BitVec 5).toNat < panel.rp := by decide

theorem test_witness_TickIsRepeatedStep : blank.PositionInv ∧ blank.ScannerIdle ∧ (running []).PositionInv := by
  unfold State.PositionInv State.ScannerIdle; decide

/-- A `TICK` at once; one held; the pulse of a job that started with 50 after a `SETONT 2100`, in the step's completion. -/
theorem test_witness_TickUsesOneOnTime :
    (running (List.replicate 4 .ok)).scan = none ∧
    check (exec .tick (running (List.replicate 4 .ok))) (fun t => t.trace.contains (.oe 50)) = true ∧
    { running [] with hold := true }.hold = true ∧ (running []).run = true ∧ (running []).fault = false ∧ panel.stepsPerTick ≠ 0 ∧
    (running []).scan = none ∧
    check (exec (.setont 2100) beforeGrant) (fun t => t.ontime == 2100 && (scanAction t).trace == [.oe 50, .rsp 0]) = true ∧
    Instr.issuer (.setont 2100) = .writer ∧ Instr.mnemonic (.setont 2100) ≠ "SCANSTEP" := by decide

theorem test_witness_TickIsOnePlanePass :
    (running (List.replicate 4 .ok)).Running ∧ (running (List.replicate 4 .ok)).ScannerIdle ∧ (running (List.replicate 4 .ok)).AnswersOk panel.rp ∧
    panel.stepsPerTick = panel.rp ∧ (at_ (running (List.replicate 4 .ok)) 7 0).Running := by
  unfold State.Running State.ScannerIdle State.AnswersOk; decide

theorem test_witness_CycleVisitsEveryPositionInOrder :
    (running (List.replicate 32 .ok)).Running ∧ (running (List.replicate 32 .ok)).ScannerIdle ∧
    (running (List.replicate 32 .ok)).AnswersOk (8 * panel.rp) ∧ (running []).plane = 0 ∧ (running []).mux = 0 := by
  unfold State.Running State.ScannerIdle State.AnswersOk; decide

/-- The last position of a cycle and the first, a `SWAP` pending. -/
theorem test_witness_SwapShowsOneCycleAfterItsGrant :
    (at_ { running (List.replicate 33 .ok) with swappend := true } 7 3).Running ∧
    (at_ { running (List.replicate 33 .ok) with swappend := true } 7 3).stepsLeft = 1 ∧
    (at_ { running (List.replicate 33 .ok) with swappend := true } 7 3).AnswersOk 33 ∧
    { running (List.replicate 64 .ok) with swappend := true }.stepsLeft = 32 ∧
    { running (List.replicate 64 .ok) with swappend := true }.AnswersOk 64 := by
  unfold State.Running State.AnswersOk; decide

theorem test_witness_Scanstep :
    configLegal panel = true ∧ { blank with oracle := [.ok] }.ScannerIdle ∧ { blank with oracle := [.ok] }.answer 0 = .ok ∧ blank.run = false ∧
    blank.fault = false ∧ (3 : BitVec 5).toNat < panel.rp ∧ panel.rp ≤ (4 : BitVec 5).toNat ∧
    failing panel ({ blank with oracle := [.latfail] }.answer 0) = true := by
  unfold State.ScannerIdle; decide

theorem test_witness_PlanePassScansEveryAddress : { blank with oracle := List.replicate 4 .ok }.AnswersOk panel.rp := by
  unfold State.AnswersOk; decide

theorem test_witness_WireCarriesEachPixelInItsByte : configLegal panel = true ∧ 7 < panel.w ∧ 3 < panel.h := by decide

/-- The pixels just outside each edge, on a panel and on a rotated one. -/
theorem test_witness_OutOfRangePixelIsDropped :
    ¬ (8 : BitVec 16).toInt < (panel.w : Int) ∧ ¬ 0 ≤ (0xFFFF : BitVec 16).toInt ∧ ¬ (4 : BitVec 16).toInt < (panel.h : Int) ∧
    inPanel panelRotated (transform panelRotated (4 : BitVec 16).toInt 0) = false := by decide

/-- The pixels just inside, on a panel and on a rotated one. -/
theorem test_witness_InRangePixelIsWritten :
    blank.WriterIdle ∧ inPanel panel (transform panel (7 : BitVec 16).toInt (3 : BitVec 16).toInt) = true ∧
    inPanel panel (transform panel (0 : BitVec 16).toInt (0 : BitVec 16).toInt) = true ∧
    inPanel panelRotated (transform panelRotated (3 : BitVec 16).toInt (7 : BitVec 16).toInt) = true := by
  unfold State.WriterIdle; decide

theorem test_witness_PixelLayout : configLegal panel = true ∧ blank.mem.wf = true ∧ 7 < panel.w ∧ 3 < panel.h ∧
    panel.redOffset = 0 ∧ panel.greenOffset = 0 ∧ panel.blueOffset = 0 ∧ 11 < planeBytes panel ∧ 7 < 8 ∧
    (∃ p, p < 8 ∧ planeOf panel p .green = 1) := by decide

theorem test_witness_ViewHoldsTheFields : configLegal { panel with redOffset := -128, gStagger := 7, nAddr := 15 } = true := by decide

theorem test_witness_LevelsAreAThermometerCode : 255 ≤ 255 ∧ 7 < 8 := by decide

/-- A pixel in range, cut after 5 of its writes; a scanner that is stopped and one that runs; a `STEP` and a `SCANSTEP` cut after two
actions. -/
theorem test_witness_HeldOperationsResumeToTheWhole :
    configLegal blank.cfg = true ∧ blank.WriterIdle ∧ blank.ScannerIdle ∧ blank.PositionInv ∧ (running [.ok]).ScannerIdle ∧ (running [.ok]).PositionInv ∧
    check (exec (.setpxb 0 0 1 2 3 0) { blank with hold := true }) (fun u => u.wq.length == 24 && check (runWriter 5 u) (fun v => v.wq.length == 19)) = true ∧
    check (exec (.setpx 7 3 1 2 3) { blank with hold := true }) (fun u => u.wq.length == 24) = true ∧
    check (exec .step { running [.ok] with hold := true }) (fun u => check (runScanner 2 u) (fun v => v.trace.length == 2 && v.scan.isSome)) = true ∧
    check (exec (.scanstep 0 0 3 9) { blank with oracle := [.ok], hold := true }) (fun u =>
      check (runScanner 2 u) (fun v => v.trace == [.addr 3, .tx 0])) = true := by
  unfold State.WriterIdle State.ScannerIdle State.PositionInv; decide

theorem test_witness_WritingAPixelLeavesTheOthers :
    check (exec (.setpxb 0 0 255 128 40 0) blank) (fun t => decodePixel t.cfg t.mem 0 0 0 == some (8, 4, 1)) = true ∧
    ((1 : BufNo) ≠ 0 ∨ (0 : Int) ≠ 0 ∨ (0 : Int) ≠ 0) ∧ ((0 : BufNo) ≠ 0 ∨ (1 : Int) ≠ 0 ∨ (0 : Int) ≠ 0) := by decide

/-- A write owed to buffer 1 while a step reads the first slice of buffer 0. -/
theorem test_witness_DisjointTurnsCommute :
    ∃ (s : State) (j : ScanJob), s.scan = some j ∧ j.pos ≠ 0 ∧ 5 + j.pos ≤ stepActions s.cfg ∧
      (∀ w, w ∈ s.wq.take 1 → ¬ j.Reads s.cfg w.buf w.off) ∧ s.TearFree ∧ (∀ j', s.scan = some j' → j'.pos ≠ 0 → j'.buf = s.actbuf) := by
  refine ⟨{ running [] with wq := [⟨1, 0, 7, true⟩], scan := some { sequencedJob blank 0 with pos := 1 } }, _, rfl, by decide, by decide,
    ?_, ?_, ?_⟩
  · intro w hw hr
    cases List.mem_singleton.mp hw
    exact absurd hr.1 (by decide)
  · intro w hw
    cases List.mem_singleton.mp hw
    decide
  · intro j' h _
    cases h
    decide

theorem test_witness_StepKeeps : blank.mem.wf = true ∧ blank.PositionInv ∧ blank.HandshakeInv ∧ blank.PinsInv ∧
    check (step (withWord blank 0)) (fun t => t == blank) = true := by
  unfold State.PositionInv State.HandshakeInv State.PinsInv; decide

theorem test_witness_ReadyWindowInv : { blank with swaprdy := true }.ReadyWindowInv :=
  fun _ => ⟨rfl, rfl, fun _ h => nomatch h⟩

/-- Without a fault and with one. -/
theorem test_witness_FaultInv : blank.FaultInv ∧ { blank with fault := true, fcause := causeTx, fmux := 3 }.FaultInv := by
  refine ⟨⟨⟨by decide, by decide⟩, fun _ h => (nomatch h), fun _ => by decide, fun h => (nomatch h)⟩,
    ⟨⟨by decide, by decide⟩, fun _ h => (nomatch h), fun h => (nomatch h), fun _ => ⟨rfl, by decide, .inl rfl⟩⟩⟩

theorem test_witness_ResetMeetsTheInvariants : ∃ c n i0 i1, configLegal c = true ∧ blank = State.powerUp c n i0 i1 :=
  ⟨panel, 0, List.replicate 96 0, List.replicate 96 0, by decide, rfl⟩

theorem test_witness_RestartIsReset :
    configLegal blank.cfg = true ∧ { blank with inputs := [.restart [] []] }.inputs = .restart [] [] :: [] := by decide

theorem test_witness_FaultAndCommandErrorAreSticky :
    check (step (withWord { blank with cmderr := true, fault := true, fcause := causeTx } 0x6000000000000001)) (fun t => t.cmderr && t.fault) = true ∧
    (∀ i0 i1 rest, (withWord blank 0).inputs ≠ .restart i0 i1 :: rest) := by
  refine ⟨by decide, fun _ _ _ h => (nomatch h)⟩

theorem test_witness_RolesKeepToTheirState :
    Instr.swtmo.issuer = .timer ∧ (Instr.scanstep 0 0 0 0).mnemonic = "SCANSTEP" ∧ Instr.swap.issuer = .writer ∧ Instr.swap.mnemonic ≠ "SCANSTEP" ∧
    check (exec .swap blank) (fun _ => true) = true := by decide

end Sys2Proof.Tests
end

section
/-! SUPPORT. What no step but a restart undoes (00_scope.md R10, 10_state.md R38, R41): the construction parameters and the launch contents
stand, and the trace is only appended to. -/

namespace Sys2Proof.Machine

/-! What the scanner appends to the trace -/

/-- R177, R178: the trace grows by the `RSP` of a pending `SWAP` or not at all. -/
theorem State.advance_trace_prefix (s : State) : s.trace <+: s.advance.trace := by
  unfold State.advance
  split
  · exact List.prefix_rfl
  · split
    · exact List.prefix_rfl
    · rw [State.cycleBoundary_trace]
      exact List.prefix_append ..

theorem beginStep_trace (j : ScanJob) (s : State) : (beginStep j s).trace = s.trace ++ [.addr (addrCode s.cfg j.mux)] := rfl

theorem scanBegin_trace_prefix (j : ScanJob) (s : State) : s.trace <+: (scanBegin j s).trace := by
  unfold scanBegin
  split
  · exact List.prefix_append ..
  · split
    · exact List.prefix_rfl
    · rw [beginStep_trace, State.cycleStarted_trace]
      exact List.prefix_append ..

theorem scanByte_trace_prefix (j : ScanJob) (k : Nat) (s : State) : s.trace <+: (scanByte j k s).trace := by
  unfold scanByte
  split
  · exact List.prefix_rfl
  · exact List.prefix_append ..

theorem scanLatch_trace_prefix (j : ScanJob) (s : State) : s.trace <+: (scanLatch j s).trace := by
  unfold scanLatch
  split
  · exact List.prefix_rfl
  · exact List.prefix_append ..

theorem scanEnable_trace_prefix (j : ScanJob) (s : State) : s.trace <+: (scanEnable j s).trace := by
  unfold scanEnable
  split
  · exact List.prefix_rfl
  · split
    · exact List.prefix_append ..
    · exact (List.prefix_append ..).trans (s.emit (.oe j.t)).advance_trace_prefix

/-- No action of the scanner takes an event out of the trace. -/
theorem scanAction_trace_prefix (s : State) : s.trace <+: (scanAction s).trace := by
  unfold scanAction
  split
  · exact List.prefix_rfl
  · split
    · exact scanBegin_trace_prefix ..
    · split
      · exact scanByte_trace_prefix ..
      · split
        · exact scanLatch_trace_prefix ..
        · exact scanEnable_trace_prefix ..

/-! What a state keeps of an earlier one -/

/-- The state `t` goes on from `s`, with no restart in between. -/
structure Continues (s t : State) : Prop where
  cfg : t.cfg = s.cfg
  launch : t.mem.launch = s.mem.launch
  init0 : t.mem.init0 = s.mem.init0
  init1 : t.mem.init1 = s.mem.init1
  trace : s.trace <+: t.trace

theorem Continues.refl (s : State) : Continues s s := ⟨rfl, rfl, rfl, rfl, List.prefix_rfl⟩

/-- An update that writes no buffer, with what it appends to the trace. -/
theorem Continues.keepsMem {s t u : State} (h : Continues s t) (hc : u.cfg = t.cfg) (hm : u.mem = t.mem) (ht : t.trace <+: u.trace) :
    Continues s u :=
  ⟨hc.trans h.cfg, hm ▸ h.launch, hm ▸ h.init0, hm ▸ h.init1, h.trace.trans ht⟩

theorem Continues.emit {s t : State} (h : Continues s t) (e : Event) : Continues s (t.emit e) :=
  h.keepsMem rfl rfl (List.prefix_append ..)

theorem Continues.writes {s t : State} (h : Continues s t) (n : Nat) : Continues s (t.writes n) := by
  obtain ⟨hl, h0, h1⟩ := t.mem.setBits_launch (t.wq.take n)
  exact ⟨h.cfg, hl.trans h.launch, h0.trans h.init0, h1.trans h.init1, h.trace⟩

theorem Continues.scanAction {s t : State} (h : Continues s t) : Continues s (scanAction t) :=
  h.keepsMem (scanAction_keeps t).cfg (scanAction_keeps t).mem (scanAction_trace_prefix t)

/-- Every named update but the writes, the events and the scanner's actions leaves parameters, buffers and trace as they are. -/
theorem continues_kept (s : State) : Kept (Continues s) where
  action _ h := h.scanAction
  writes _ n h := h.writes n
  respond _ v h := h.emit (.rsp v)
  powerOn _ h := h.keepsMem rfl rfl (List.prefix_append ..)
  powerOff _ h := h.keepsMem rfl rfl (List.prefix_append ..)
  sequenced _ _ h _ _ := h.keepsMem rfl rfl List.prefix_rfl
  direct _ _ _ _ _ h _ _ _ _ := h.keepsMem rfl rfl List.prefix_rfl
  owes _ _ h := h.keepsMem rfl rfl List.prefix_rfl
  accept _ _ h := h.keepsMem rfl rfl List.prefix_rfl
  consumed _ h := h.keepsMem rfl rfl List.prefix_rfl
  commandError _ h := h.keepsMem rfl rfl List.prefix_rfl
  selbuf _ _ h := h.keepsMem rfl rfl List.prefix_rfl
  setont _ _ h := h.keepsMem rfl rfl List.prefix_rfl
  grant _ h _ := h.keepsMem rfl rfl List.prefix_rfl
  pend _ h _ := h.keepsMem rfl rfl List.prefix_rfl
  timeout _ h := h.keepsMem rfl rfl List.prefix_rfl

/-! Steps -/

/-- Every step but a restart goes on from the state before it. -/
theorem step_continues {s t : State} (h : step s = .next t) (hr : ∀ i0 i1 rest, s.inputs ≠ .restart i0 i1 :: rest) : Continues s t :=
  (continues_kept s).step (.refl s) h fun i0 i1 rest hi _ => absurd hi (hr i0 i1 rest)

/-- R290: a restart that is not refused gives the restarted state. -/
theorem step_restart {s t : State} {i0 i1 : List Byte} {rest : List Input} (h : step s = .next t) (hi : s.inputs = .restart i0 i1 :: rest) :
    t = s.consumed.restarted i0 i1 := by
  unfold step at h
  rw [hi] at h
  split at h <;> cases h
  rfl

/-- R10, R290: no step, a restart included, writes the construction parameters. -/
theorem step_cfg {s t : State} (h : step s = .next t) : t.cfg = s.cfg := by
  by_cases hr : ∃ i0 i1 rest, s.inputs = .restart i0 i1 :: rest
  · obtain ⟨i0, i1, rest, hi⟩ := hr
    rw [step_restart h hi]
    rfl
  · exact (step_continues h fun i0 i1 rest hi => hr ⟨i0, i1, rest, hi⟩).cfg

/-- Settles O59: a restart keeps the parameters, and every other step goes on from the state before it. -/
theorem parametersNeverChangeAndTheTraceGrows : Obligations.ParametersNeverChangeAndTheTraceGrows := by
  unfold Obligations.ParametersNeverChangeAndTheTraceGrows
  intro s t h
  refine ⟨step_cfg h, fun hr => ?_⟩
  obtain ⟨-, launch, init0, init1, es, trace⟩ := step_continues h hr
  exact ⟨launch, init0, init1, es, trace.symm⟩

end Sys2Proof.Machine
end

section
/-! SUPPORT. One action of the scanner, said once as the updates it can be (42_scan.md R170, R175 to R177, 60_exceptions.md R256). -/

namespace Sys2Proof.Machine

/-- The cause of a failing answer is one of R254's three. -/
theorem causeOf_failing {c : Config} {o : Transport} (h : failing c o = true) :
    causeOf o = causeTx ∨ causeOf o = causeLatch ∨ causeOf o = causeOe := by
  cases o with
  | ok => cases h
  | txfail k => exact .inl rfl
  | latfail => exact .inr (.inl rfl)
  | oefail => exact .inr (.inr rfl)

/-- What one action of the scanner makes of the state `s`. -/
inductive ScanMove (s : State) : State → Prop where
  /-- Nothing is in progress. -/
  | idle : s.scan = none → ScanMove s s
  /-- The gate of R174 ends the sequencer's job before its next step. -/
  | stopped {j : ScanJob} : s.scan = some j → j.pos = 0 → j.direct = false → s.scannerStopped = true → ScanMove s (s.setScan none)
  /-- A step begins at the sequencer's position (R176). -/
  | beginSequenced {j : ScanJob} : s.scan = some j → j.pos = 0 → j.direct = false → s.scannerStopped = false →
      ScanMove s (beginStep { j with buf := s.actbuf, plane := s.plane, mux := s.mux } s.cycleStarted)
  /-- A `SCANSTEP`'s step begins (R181). -/
  | beginDirect {j : ScanJob} : s.scan = some j → j.pos = 0 → j.direct = true → ScanMove s (beginStep j s)
  /-- A byte is sent (R170). -/
  | sent {j : ScanJob} (b : Byte) : s.scan = some j → j.pos ≠ 0 → ScanMove s ((s.emit (.tx b)).setScan (some { j with pos := j.pos + 1 }))
  /-- The latch pulse (R170). -/
  | latched {j : ScanJob} : s.scan = some j → j.pos ≠ 0 → ScanMove s ((s.emit .lat).setScan (some { j with pos := j.pos + 1 }))
  /-- A `SCANSTEP`'s output-enable pulse (R181). -/
  | enabledDirect {j : ScanJob} : s.scan = some j → j.pos ≠ 0 → j.direct = true → ScanMove s ((s.emit (.oe j.t)).setScan j.next)
  /-- The sequencer's output-enable pulse, in one action with the advance (R177). -/
  | enabledSequenced {j : ScanJob} : s.scan = some j → j.pos ≠ 0 → j.direct = false →
      ScanMove s ((s.emit (.oe j.t)).advance.setScan j.next)
  /-- The transport lets the step down (R256). -/
  | failed {j : ScanJob} : s.scan = some j → j.pos ≠ 0 → failing s.cfg j.outcome = true → ScanMove s (s.takeFault (causeOf j.outcome) j)

section
variable {s : State} {j : ScanJob} (hs : s.scan = some j)
include hs

theorem scanBegin_move (h0 : j.pos = 0) : ScanMove s (scanBegin j s) := by
  unfold scanBegin
  split
  · rename_i hd; exact .beginDirect hs h0 hd
  · rename_i hd
    split
    · rename_i hst; exact .stopped hs h0 (by simpa using hd) hst
    · rename_i hst; exact .beginSequenced hs h0 (by simpa using hd) (by simpa using hst)

variable (h0 : j.pos ≠ 0)
include h0

theorem scanByte_move (hp : j.pos ≤ sliceBytes s.cfg) : ScanMove s (scanByte j (j.pos - 1) s) := by
  have hlt : j.pos - 1 < sliceBytes s.cfg := by omega
  unfold scanByte
  split
  · rename_i ho
    have hm := ScanMove.failed hs h0 (by simpa [ho, failing] using hlt)
    rwa [ho] at hm
  · rw [show j.pos - 1 + 2 = j.pos + 1 by omega]
    exact .sent _ hs h0

theorem scanLatch_move : ScanMove s (scanLatch j s) := by
  unfold scanLatch
  split
  · rename_i ho
    have hm := ScanMove.failed hs h0 (by rw [ho]; rfl)
    rwa [ho] at hm
  · exact .latched hs h0

theorem scanEnable_move : ScanMove s (scanEnable j s) := by
  unfold scanEnable
  split
  · rename_i ho
    have hm := ScanMove.failed hs h0 (by rw [ho]; rfl)
    rwa [ho] at hm
  · split
    · rename_i hd; exact .enabledDirect hs h0 hd
    · rename_i hd; exact .enabledSequenced hs h0 (by simpa using hd)

end

/-- Every action of the scanner is one of these. -/
theorem scanAction_move (s : State) : ScanMove s (scanAction s) := by
  unfold scanAction
  split
  · rename_i hs; exact .idle hs
  · rename_i j hs
    split
    · rename_i h0; exact scanBegin_move hs h0
    · rename_i h0
      split
      · rename_i hp; exact scanByte_move hs h0 hp
      · split
        · exact scanLatch_move hs h0
        · exact scanEnable_move hs h0

/-- The steps after this one keep the job's address. -/
theorem ScanJob.next_mux {j j' : ScanJob} (h : j.next = some j') : j'.mux = j.mux := by
  unfold ScanJob.next at h
  split at h
  · cases h
  · split at h <;> cases h
    rfl

/-- `POWER 0` keeps the job's address, if it leaves the job. -/
theorem ScanJob.powerOff_mux {j j' : ScanJob} (h : j.powerOff = some j') : j'.mux = j.mux := by
  unfold ScanJob.powerOff at h
  split at h <;> cases h
  rfl

end Sys2Proof.Machine
end

section
/-! SUPPORT. The state after power-up meets the invariants (10_state.md R42): they hold at reset and, in the next part, every step keeps them. -/

namespace Sys2Proof.Machine

section
variable (c : Config) (n : Nat) (i0 i1 : List Byte)

theorem State.powerUp_wf : (State.powerUp c n i0 i1).mem.wf = true := rfl

theorem State.powerUp_handshakeInv : (State.powerUp c n i0 i1).HandshakeInv := fun h => nomatch h.1

theorem State.powerUp_pinsInv : (State.powerUp c n i0 i1).PinsInv := ⟨rfl, rfl, rfl⟩

theorem State.powerUp_readyWindowInv : (State.powerUp c n i0 i1).ReadyWindowInv := fun h => nomatch h

/-- No cell is listed at reset, so a byte reads as the launch list gives it (R38). -/
theorem State.powerUp_read (b : BufNo) (a : Nat) (h : a < ((State.powerUp c n i0 i1).mem.init b).length) :
    (State.powerUp c n i0 i1).mem.read b a = ((State.powerUp c n i0 i1).mem.init b).getD a 0 := by
  have hc : (State.powerUp c n i0 i1).mem.cells b = [] := by
    unfold Memory.cells
    split <;> rfl
  rw [Memory.read, hc, readCells, Memory.unlisted, List.getD_eq_getElem _ _ h, List.getD_eq_getElem _ _ h]

variable {c} (hc : configLegal c = true)
include hc

theorem State.powerUp_positionInv : (State.powerUp c n i0 i1).PositionInv :=
  ⟨hc, lt_of_lt_of_le (by decide : 0 < 4) (legal_rp_bounds hc).1⟩

theorem State.powerUp_faultInv : (State.powerUp c n i0 i1).FaultInv :=
  ⟨State.powerUp_positionInv n i0 i1 hc, fun _ h => (nomatch h), fun _ => ⟨rfl, rfl, rfl, rfl⟩, fun h => (nomatch h)⟩

end

/-- The configuration of `State.reset` is legal, so `State.reset` is one of the power-up states. -/
theorem State.reset_isPowerUp : ∃ c n i0 i1, configLegal c = true ∧ State.reset = State.powerUp c n i0 i1 :=
  ⟨_, _, _, _, by decide, rfl⟩

/-- Settles O55: each invariant holds at power-up, and `State.reset` is a power-up. -/
theorem resetMeetsTheInvariants : Obligations.ResetMeetsTheInvariants := by
  unfold Obligations.ResetMeetsTheInvariants
  intro s h
  have hp : ∃ c n i0 i1, configLegal c = true ∧ s = State.powerUp c n i0 i1 := by
    obtain rfl | hp := h
    · exact State.reset_isPowerUp
    · exact hp
  obtain ⟨c, n, i0, i1, hc, rfl⟩ := hp
  exact ⟨State.powerUp_wf c n i0 i1, State.powerUp_positionInv n i0 i1 hc, State.powerUp_handshakeInv c n i0 i1,
    State.powerUp_readyWindowInv c n i0 i1, State.powerUp_faultInv n i0 i1 hc, State.powerUp_pinsInv c n i0 i1, ⟨rfl, rfl⟩, ⟨rfl, rfl⟩⟩

/-- Settles O56: the registers by `State.powerUp`, the buffers by the launch lists. -/
theorem resetClearsEverything : Obligations.ResetClearsEverything := by
  unfold Obligations.ResetClearsEverything
  rintro c n i0 i1 s rfl
  exact ⟨rfl, rfl, rfl, rfl, rfl, rfl, rfl, rfl, rfl, ⟨rfl, rfl, rfl, rfl⟩, rfl, rfl, ⟨rfl, rfl, rfl, rfl, rfl⟩, rfl, rfl,
    State.powerUp_read c n i0 i1 0, State.powerUp_read c n i0 i1 1⟩

end Sys2Proof.Machine
end

section
/-! SUPPORT. The invariants, each kept by the machine's named updates and so by every step: the canonical form of the buffers (10_state.md R36,
20_memory.md R73), the sequencer's position (R24, 42_scan.md R177), the handshake (R31), the fault record (R28, R29, 60_exceptions.md R254) and
the pins (R40, R41). -/

namespace Sys2Proof.Machine

/-! Properties of the scanner's part of the state -/

/-- The state with what the scanner's invariants do not see blanked out: the writer's registers and accesses, the port and the trace. -/
def State.scannerPart (s : State) : State :=
  { s with
    wrbuf := 0, selbufR := 0, ontime := 0, cmderr := false, mem := State.reset.mem, trace := [], wq := [], hold := false, inputs := [] }

/-- A property that sees only the scanner's part is kept by every named update if the updates of that part keep it. -/
theorem Kept.of_scannerPart {P : State → Prop} (hP : ∀ s, P s ↔ P s.scannerPart) (action : ∀ s, P s → P (Machine.scanAction s))
    (sequenced : ∀ s k, P s → s.scan = none → s.scannerStopped = false → P (s.setScan (some (sequencedJob s k))))
    (direct : ∀ s buf plane mux t, P s → s.scan = none → s.run = false → s.fault = false → mux.toNat < s.cfg.rp →
      P (s.setScan (some (directJob buf plane mux t))))
    (pend : ∀ s, P s → s.swaprdy = false → P { s with swappend := true }) (timeout : ∀ s, P s → P { s with swappend := false })
    (powerOn : ∀ s, P s → P ({ s with run := true }.emit (.pwr true)))
    (powerOff : ∀ s, P s → P ({ s with run := false, scan := s.scan.bind ScanJob.powerOff }.emit (.pwr false))) : Kept P := by
  have same {s t : State} (h : P s) (e : t.scannerPart = s.scannerPart) : P t := (hP t).mpr (e ▸ (hP s).mp h)
  exact {
    action, sequenced, direct, pend, timeout, powerOn, powerOff
    writes := fun _ _ h => same h rfl
    owes := fun _ _ h => same h rfl
    accept := fun _ _ h => same h rfl
    consumed := fun _ h => same h rfl
    commandError := fun _ h => same h rfl
    respond := fun _ _ h => same h rfl
    selbuf := fun _ _ h => same h rfl
    setont := fun _ _ h => same h rfl
    grant := fun _ h _ => same h rfl }

/-! The canonical form of the buffers -/

theorem wf_kept : Kept fun s => s.mem.wf = true where
  action s h := (scanAction_keeps s).mem ▸ h
  writes _ _ h := Memory.wf_setBits h _
  sequenced _ _ h _ _ := h
  direct _ _ _ _ _ h _ _ _ _ := h
  owes _ _ h := h
  accept _ _ h := h
  consumed _ h := h
  commandError _ h := h
  respond _ _ h := h
  selbuf _ _ h := h
  setont _ _ h := h
  grant _ h _ := h
  pend _ h _ := h
  timeout _ h := h
  powerOn _ h := h
  powerOff _ h := h

/-- Settles O49: only the writes touch the buffers, and a write keeps the canonical form; a restart lists no cell. -/
theorem stepKeepsTheBuffersCanonical : Obligations.StepKeepsTheBuffersCanonical := by
  unfold Obligations.StepKeepsTheBuffersCanonical
  intro s t h hstep
  exact wf_kept.step h hstep fun i0 i1 _ _ _ => State.powerUp_wf s.cfg (s.mem.launch + 1) i0 i1

/-! The position -/

/-- R177: the position after this one is one of the sequencer's. -/
theorem State.PositionInv.advance {s : State} (h : s.PositionInv) : s.advance.PositionInv := by
  obtain ⟨hc, hm⟩ := h
  have hrp := legal_rp_bounds hc
  refine ⟨by simpa using hc, ?_⟩
  rw [State.advance_cfg]
  unfold State.advance
  split
  · show (s.mux + 1).toNat < s.cfg.rp
    bv_omega
  · split
    · show 0 < s.cfg.rp
      omega
    · rw [State.cycleBoundary_mux]
      show 0 < s.cfg.rp
      omega

/-- The parameters and the position are as they were. -/
theorem State.PositionInv.of_same {s t : State} (h : s.PositionInv) (hc : t.cfg = s.cfg) (hm : t.mux = s.mux) : t.PositionInv := by
  unfold State.PositionInv
  rw [hc, hm]
  exact h

/-- Of the scanner's actions only the sequencer's output-enable moves the position. -/
theorem ScanMove.positionInv {s t : State} (m : ScanMove s t) (h : s.PositionInv) : t.PositionInv := by
  cases m with
  | enabledSequenced => exact (State.PositionInv.advance (s := s.emit _) h).of_same rfl rfl
  | beginSequenced => exact h.of_same (by simp [beginStep]) (by simp [beginStep])
  | idle | stopped | beginDirect | sent | latched | enabledDirect | failed => exact h

theorem positionInv_kept : Kept State.PositionInv :=
  .of_scannerPart (fun _ => .rfl) (action := fun s h => (scanAction_move s).positionInv h) (sequenced := fun _ _ h _ _ => h)
    (direct := fun _ _ _ _ _ h _ _ _ _ => h) (pend := fun _ h _ => h) (timeout := fun _ h => h) (powerOn := fun _ h => h)
    (powerOff := fun _ h => h)

/-- Settles O50: the advance stays on the sequencer's positions, and a restart goes to the first. -/
theorem stepKeepsThePosition : Obligations.StepKeepsThePosition := by
  unfold Obligations.StepKeepsThePosition
  intro s t h hstep
  exact positionInv_kept.step h hstep fun i0 i1 _ _ hs => State.powerUp_positionInv (s.mem.launch + 1) i0 i1 hs.1

/-! The handshake -/

/-- R178: the boundary that sets `SWAPRDY` grants the pending `SWAP`. -/
theorem State.HandshakeInv.advance {s : State} (h : s.HandshakeInv) : s.advance.HandshakeInv := by
  unfold State.advance
  split
  · exact h
  · split
    · exact h
    · intro hb
      simp at hb

/-- R26: the cycle start only clears `SWAPRDY`. -/
theorem State.HandshakeInv.cycleStarted {s : State} (h : s.HandshakeInv) : s.cycleStarted.HandshakeInv := by
  unfold State.cycleStarted
  split
  · exact fun hb => nomatch hb.1
  · exact h

theorem State.HandshakeInv.of_same {s t : State} (h : s.HandshakeInv) (hr : t.swaprdy = s.swaprdy) (hp : t.swappend = s.swappend) :
    t.HandshakeInv := by
  unfold State.HandshakeInv
  rw [hr, hp]
  exact h

theorem ScanMove.handshakeInv {s t : State} (m : ScanMove s t) (h : s.HandshakeInv) : t.HandshakeInv := by
  cases m with
  | @enabledSequenced j =>
    have hemit : (s.emit (.oe j.t)).HandshakeInv := h
    exact hemit.advance
  | beginSequenced => exact h.cycleStarted.of_same (by simp [beginStep]) (by simp [beginStep])
  | idle | stopped | beginDirect | sent | latched | enabledDirect | failed => exact h

theorem handshakeInv_kept : Kept State.HandshakeInv :=
  .of_scannerPart (fun _ => .rfl) (action := fun s h => (scanAction_move s).handshakeInv h) (sequenced := fun _ _ h _ _ => h)
    (direct := fun _ _ _ _ _ h _ _ _ _ => h) (pend := fun _ _ hr hb => Bool.false_ne_true (hr.symm.trans hb.1))
    (timeout := fun _ _ hb => nomatch hb.2) (powerOn := fun _ h => h) (powerOff := fun _ h => h)

/-- Settles O51: a `SWAP` pends only where `SWAPRDY` is 0, and the boundary that sets `SWAPRDY` grants it. -/
theorem stepKeepsTheHandshake : Obligations.StepKeepsTheHandshake := by
  unfold Obligations.StepKeepsTheHandshake
  intro s t h hstep
  exact handshakeInv_kept.step h hstep fun i0 i1 _ _ _ => State.powerUp_handshakeInv s.cfg (s.mem.launch + 1) i0 i1

/-! The fault record -/

/-- No step is in progress after a fault (R256). -/
theorem State.FaultInv.noFault {s : State} {j : ScanJob} (h : s.FaultInv) (hs : s.scan = some j) : s.fault = false := by
  obtain ⟨-, -, -, hfault⟩ := h
  by_contra hf
  obtain ⟨hn, -⟩ := hfault (by simpa using hf)
  cases hn.symm.trans hs

/-- An update that leaves the record alone and the scanner with an address that exists, or with no job. -/
theorem State.FaultInv.of_same {s t : State} (h : s.FaultInv) (hp : t.PositionInv) (hc : t.cfg = s.cfg) (hf : t.fault = s.fault)
    (hcause : t.fcause = s.fcause) (hplane : t.fplane = s.fplane) (hmux : t.fmux = s.fmux) (hbuf : t.fbuf = s.fbuf)
    (hj : ∀ j, t.scan = some j → s.fault = false ∧ j.mux.toNat < s.cfg.rp) : t.FaultInv := by
  obtain ⟨-, -, hzero, hfault⟩ := h
  unfold State.FaultInv
  rw [hc, hf, hcause, hplane, hmux, hbuf]
  refine ⟨hp, fun j e => (hj j e).2, hzero, fun hset => ?_⟩
  obtain ⟨-, hinfo⟩ := hfault hset
  refine ⟨Option.eq_none_iff_forall_ne_some.mpr fun j e => ?_, hinfo⟩
  cases hset.symm.trans (hj j e).1

/-- The scanner's job of an unchanged state goes to one of the same address, or ends. -/
theorem State.FaultInv.setScan {s : State} (h : s.FaultInv) {x : Option ScanJob}
    (hj : ∀ j, x = some j → s.fault = false ∧ j.mux.toNat < s.cfg.rp) : (s.setScan x).FaultInv :=
  h.of_same h.1 rfl rfl rfl rfl rfl rfl hj

theorem ScanMove.faultInv {s t : State} (m : ScanMove s t) (h : s.FaultInv) : t.FaultInv := by
  have hp := m.positionInv h.1
  have ⟨⟨_, hmux⟩, hjob, _⟩ := h
  cases m with
  | idle => exact h
  | stopped => exact h.setScan fun _ e => (nomatch e)
  | beginSequenced hs =>
    refine h.of_same hp ?_ ?_ ?_ ?_ ?_ ?_ (by rintro _ ⟨⟩; exact ⟨h.noFault hs, hmux⟩) <;> simp [beginStep]
  | beginDirect hs | sent _ hs | latched hs =>
    refine h.of_same hp rfl rfl rfl rfl rfl rfl ?_
    rintro _ ⟨⟩
    exact ⟨h.noFault hs, (hjob _ hs :)⟩
  | enabledDirect hs | enabledSequenced hs =>
    refine h.of_same hp (by simp) (by simp) (by simp) (by simp) (by simp) (by simp) fun j' e => ?_
    rw [ScanJob.next_mux e]
    exact ⟨h.noFault hs, hjob _ hs⟩
  | failed hs _ hfail => exact ⟨hp, fun _ e => (nomatch e), fun e => (nomatch e), fun _ => ⟨rfl, hjob _ hs, causeOf_failing hfail⟩⟩

/-- R174: the sequencer's job starts only without a fault, at a position that exists. -/
theorem State.FaultInv.startSequenced {s : State} (h : s.FaultInv) (hst : s.scannerStopped = false) (k : Nat) :
    (s.setScan (some (sequencedJob s k))).FaultInv := by
  obtain ⟨-, hf⟩ : s.run = true ∧ s.fault = false := by simpa [State.scannerStopped] using hst
  refine h.setScan ?_
  rintro _ ⟨⟩
  exact ⟨hf, h.1.2⟩

/-- R202: `POWER 0` ends the job in progress or leaves it its address. -/
theorem State.FaultInv.powerOff {s : State} (h : s.FaultInv) :
    ({ s with run := false, scan := s.scan.bind ScanJob.powerOff }.emit (.pwr false)).FaultInv := by
  refine h.of_same h.1 rfl rfl rfl rfl rfl rfl fun j e => ?_
  obtain ⟨j', hs, hj⟩ := Option.bind_eq_some_iff.mp e
  rw [ScanJob.powerOff_mux hj]
  exact ⟨h.noFault hs, h.2.1 j' hs⟩

theorem faultInv_kept : Kept State.FaultInv :=
  .of_scannerPart (fun _ => .rfl) (action := fun s h => (scanAction_move s).faultInv h)
    (sequenced := fun _ k h _ hst => h.startSequenced hst k)
    (direct := fun _ _ _ _ _ h _ _ hf hm => h.setScan (by rintro _ ⟨⟩; exact ⟨hf, hm⟩))
    (pend := fun _ h _ => h) (timeout := fun _ h => h) (powerOn := fun _ h => h) (powerOff := fun _ h => h.powerOff)

/-- Settles O53: only a failing step writes the record, with its cause and its job's address, and it ends the job. -/
theorem stepKeepsTheFaultRecord : Obligations.StepKeepsTheFaultRecord := by
  unfold Obligations.StepKeepsTheFaultRecord
  intro s t h hstep
  exact faultInv_kept.step h hstep fun i0 i1 _ _ hs => State.powerUp_faultInv (s.mem.launch + 1) i0 i1 hs.1.1

/-! The pins -/

theorem State.PinsInv.of_same {s t : State} (h : s.PinsInv) (hp : t.pins = s.pins) (hr : t.run = s.run) : t.PinsInv := by
  unfold State.PinsInv
  rw [hp, hr]
  exact h

/-- R41: no event but `PWR` leaves another level on `LAT`, `OE` or `PWR_EN`. -/
theorem State.PinsInv.emit {s : State} (h : s.PinsInv) (e : Event) (he : ∀ l, e ≠ .pwr l) : (s.emit e).PinsInv := by
  obtain ⟨hlat, hoe, hpwr⟩ := h
  cases e with
  | pwr l => exact absurd rfl (he l)
  | lat => exact ⟨rfl, hoe, hpwr⟩
  | oe _ => exact ⟨hlat, rfl, hpwr⟩
  | addr _ | tx _ | rsp _ => exact ⟨hlat, hoe, hpwr⟩

theorem ScanMove.pinsInv {s t : State} (m : ScanMove s t) (h : s.PinsInv) : t.PinsInv := by
  cases m with
  | idle | stopped => exact h
  | beginSequenced => exact (h.emit (.addr (addrCode s.cfg s.mux)) nofun).of_same (by simp [beginStep]) (by simp [beginStep])
  | @beginDirect j => exact h.emit (.addr (addrCode s.cfg j.mux)) nofun
  | sent b => exact h.emit (.tx b) nofun
  | latched => exact h.emit .lat nofun
  | @enabledDirect j => exact h.emit (.oe j.t) nofun
  | @enabledSequenced j => exact (h.emit (.oe j.t) nofun).of_same (by simp) (by simp)
  | failed => exact ⟨h.1, rfl, h.2.2⟩

theorem pinsInv_kept : Kept State.PinsInv :=
  .of_scannerPart (fun _ => .rfl) (action := fun s h => (scanAction_move s).pinsInv h) (sequenced := fun _ _ h _ _ => h)
    (direct := fun _ _ _ _ _ h _ _ _ _ => h) (pend := fun _ h _ => h) (timeout := fun _ h => h)
    (powerOn := fun _ ⟨hlat, hoe, _⟩ => ⟨hlat, hoe, rfl⟩) (powerOff := fun _ ⟨hlat, hoe, _⟩ => ⟨hlat, hoe, rfl⟩)

/-- Settles O54: `POWER` writes `RUN` and `PWR_EN` together, and every pulse ends in its own event. -/
theorem stepKeepsThePins : Obligations.StepKeepsThePins := by
  unfold Obligations.StepKeepsThePins
  intro s t h hstep
  exact pinsInv_kept.step h hstep fun i0 i1 _ _ _ => State.powerUp_pinsInv s.cfg (s.mem.launch + 1) i0 i1

/-! What stays once it is set -/

theorem cmderr_kept : Kept fun s => s.cmderr = true where
  action s h := (scanAction_keeps s).cmderr.trans h
  commandError _ _ := rfl
  sequenced _ _ h _ _ := h
  direct _ _ _ _ _ h _ _ _ _ := h
  writes _ _ h := h
  owes _ _ h := h
  accept _ _ h := h
  consumed _ h := h
  respond _ _ h := h
  selbuf _ _ h := h
  setont _ _ h := h
  grant _ h _ := h
  pend _ h _ := h
  timeout _ h := h
  powerOn _ h := h
  powerOff _ h := h

/-- A fault was taken, no scan operation is in progress, and the record, the position and the buffer on show are those of `s`. -/
def State.HaltedAs (s t : State) : Prop :=
  (t.fault = true ∧ t.scan = none) ∧ t.fcause = s.fcause ∧ t.fplane = s.fplane ∧ t.fmux = s.fmux ∧ t.fbuf = s.fbuf ∧
    t.plane = s.plane ∧ t.mux = s.mux ∧ t.actbuf = s.actbuf

theorem State.HaltedAs.fault {s t : State} (h : s.HaltedAs t) : t.fault = true := h.1.1

/-- No action is left to the scanner. -/
theorem State.HaltedAs.scanAction {s t : State} (h : s.HaltedAs t) : s.HaltedAs (scanAction t) := by
  rw [scanAction_of_none h.1.2]
  exact h

theorem State.HaltedAs.powerOff {s t : State} (h : s.HaltedAs t) :
    s.HaltedAs ({ t with run := false, scan := t.scan.bind ScanJob.powerOff }.emit (.pwr false)) := by
  obtain ⟨⟨hf, hn⟩, hrest⟩ := h
  exact ⟨⟨hf, congrArg (·.bind ScanJob.powerOff) hn⟩, hrest⟩

/-- R258: a fault leaves the scanner nothing in progress and lets nothing begin, so nothing moves. -/
theorem haltedAs_kept (s : State) : Kept s.HaltedAs :=
  .of_scannerPart (fun _ => .rfl) (action := fun _ h => h.scanAction)
    (sequenced := fun t _ h _ hst => absurd hst (by simp [State.scannerStopped, h.fault]))
    (direct := fun _ _ _ _ _ h _ _ hf _ => absurd (hf.symm.trans h.fault) Bool.false_ne_true)
    (pend := fun _ h _ => h) (timeout := fun _ h => h) (powerOn := fun _ h => h) (powerOff := fun _ h => h.powerOff)

/-- Settles O58: `CMDERR` is only ever set, and a fault halts the scanner, which alone writes the rest. -/
theorem faultAndCommandErrorAreSticky : Obligations.FaultAndCommandErrorAreSticky := by
  unfold Obligations.FaultAndCommandErrorAreSticky
  intro s t hinv hstep hr
  refine ⟨fun h => cmderr_kept.step h hstep fun i0 i1 rest hi _ => absurd hi (hr i0 i1 rest), fun hf => ?_⟩
  obtain ⟨-, -, -, hfault⟩ := hinv
  have h : s.HaltedAs s := ⟨⟨hf, (hfault hf).1⟩, rfl, rfl, rfl, rfl, rfl, rfl, rfl⟩
  obtain ⟨⟨hf', -⟩, hrest⟩ := (haltedAs_kept s).step h hstep fun i0 i1 rest hi _ => absurd hi (hr i0 i1 rest)
  exact ⟨hf', hrest⟩

end Sys2Proof.Machine
end

section
/-! SUPPORT. What a completed scan step of the sequencer makes of `SWAPRDY` (10_state.md R26, 42_scan.md R176, R178). -/

namespace Sys2Proof.Machine

/-- A completed step off the cycle boundary writes of the handshake only `SWAPRDY`, which it clears at the cycle start (R26, R176). -/
theorem State.stepped_offBoundary {s : State} (h : s.Running) (hb : ¬ (s.plane = 7 ∧ s.mux.toNat = s.cfg.rp - 1)) (t : BitVec 16) :
    (s.stepped t).swaprdy = (if s.plane = 0 ∧ s.mux = 0 then false else s.swaprdy) ∧
    (s.stepped t).actbuf = s.actbuf ∧ (s.stepped t).selbufR = s.selbufR ∧ (s.stepped t).swappend = s.swappend := by
  rcases s.stepped_cases h t with ⟨-, e⟩ | ⟨-, -, e⟩ | ⟨hm, hp, -⟩
  · rw [e]
    simp [State.emitAll_eq, s.atCycleStart_iff]
  · rw [e]
    simp [State.emitAll_eq, s.atCycleStart_iff]
  · exact absurd ⟨hp, hm⟩ hb

/-- The completion of the last step of a cycle sets `SWAPRDY` (R178). -/
theorem State.stepped_boundary {s : State} (h : s.Running) (hp : s.plane = 7) (hm : s.mux.toNat = s.cfg.rp - 1) (t : BitVec 16) :
    (s.stepped t).swaprdy = true := by
  have hrp := h.rp_pos
  rcases s.stepped_cases h t with ⟨hm', -⟩ | ⟨-, hp', -⟩ | ⟨-, -, e⟩
  · omega
  · rw [hp] at hp'
    exact absurd hp' (by decide)
  · rw [e, State.cycleBoundary_swaprdy]

/-- Settles O23: `(0, 0)` is not the boundary, so each position has one of the two forms of a completed step. -/
theorem stepDrivesSwapReady : Obligations.StepDrivesSwapReady := by
  unfold Obligations.StepDrivesSwapReady
  intro s hrun hidle hok
  have off := fun hb => s.stepped_offBoundary hrun hb s.ontime
  refine ⟨s.stepped s.ontime, execStep_done hrun hidle hok, fun h0 => ?_, fun ⟨hp, hm⟩ => s.stepped_boundary hrun hp hm _,
    fun h0 hb => ?_, fun hb => (off hb).2⟩
  · have hb : ¬ (s.plane = 7 ∧ s.mux.toNat = s.cfg.rp - 1) := fun ⟨hp, _⟩ => absurd (h0.1.symm.trans hp) (by decide)
    rw [(off hb).1, if_pos h0]
  · rw [(off hb).1, if_neg h0]

end Sys2Proof.Machine
end

section
/-! SUPPORT. The register view (10_state.md R34): each register is a number whose digits are its fields. -/

namespace Sys2Proof.Machine

/-! Fields of a register that is given as a number -/

theorem toNat_field (n lo len : Nat) : ((BitVec.ofNat 32 n).extractLsb' lo len).toNat = n % 2 ^ 32 / 2 ^ lo % 2 ^ len := by
  simp [BitVec.extractLsb'_toNat, Nat.shiftRight_eq_div_pow]

/-- A field is a value when its digits are. -/
theorem field_eq {n lo len : Nat} {v : BitVec len} (h : n % 2 ^ 32 / 2 ^ lo % 2 ^ len = v.toNat) :
    (BitVec.ofNat 32 n).extractLsb' lo len = v :=
  BitVec.eq_of_toNat_eq ((toNat_field n lo len).trans h)

/-- A field is a code when its digits are. -/
theorem field_eq_ofNat {n lo len k : Nat} (h : n % 2 ^ 32 / 2 ^ lo % 2 ^ len = k % 2 ^ len) :
    (BitVec.ofNat 32 n).extractLsb' lo len = BitVec.ofNat len k :=
  field_eq (h.trans (BitVec.toNat_ofNat k len).symm)

/-- A field above all digits reads 0. -/
theorem field_eq_zero {n lo len : Nat} (h : n < 2 ^ lo) : (BitVec.ofNat 32 n).extractLsb' lo len = 0 :=
  field_eq (by rw [Nat.div_eq_of_lt ((Nat.mod_le n _).trans_lt h), Nat.zero_mod, BitVec.ofNat_eq_ofNat, BitVec.toNat_ofNat, Nat.zero_mod])

/-- One bit is a flag when its digit is. -/
theorem bit_eq {n i : Nat} {b : Bool} (h : n % 2 ^ 32 / 2 ^ i % 2 = b.toNat) : (BitVec.ofNat 32 n).getLsbD i = b := by
  rw [← BitVec.testBit_toNat, BitVec.toNat_ofNat, Nat.testBit_eq_decide_div_mod_eq, h]
  cases b <;> rfl

/-- One bit is clear when its digit is 0. -/
theorem bit_eq_false {n i : Nat} (h : n % 2 ^ 32 / 2 ^ i % 2 = 0) : (BitVec.ofNat 32 n).getLsbD i = false := bit_eq h

/-- A channel offset of R11 is the number its byte stands for. -/
theorem toInt_ofInt_offset {o : Int} (h : -128 ≤ o ∧ o ≤ 127) : (BitVec.ofInt 8 o).toInt = o := by
  rw [BitVec.toInt_ofInt_eq_self (by decide)] <;> omega

theorem muxCode_le (p : MuxPattern) : muxCode p ≤ 1 := by cases p <;> decide

theorem scanCode_le (p : ScanPattern) : scanCode p ≤ 2 := by cases p <;> decide

theorem txCode_le (o : TxOrder) : txCode o ≤ 1 := by cases o <;> decide

theorem revnibCode_le (r : RevnibHalf) : revnibCode r ≤ 1 := by cases r <;> decide

theorem legal_nAddr {c : Config} (h : configLegal c = true) : c.nAddr ≤ 15 := by
  obtain ⟨-, -, hl⟩ := (configLegal_iff c).mp h
  simp only [linesLegal, Bool.and_eq_true, decide_eq_true_eq] at hl
  exact hl.1.2

/-! The registers -/

section
variable (s : State)

/-- `CTRL` (R34). -/
theorem view_ctrl : (view s 3).getLsbD 0 = s.run ∧ (view s 3).extractLsb' 1 31 = 0 := by
  show (flagBit s.run).getLsbD 0 = s.run ∧ (flagBit s.run).extractLsb' 1 31 = 0
  cases s.run <;> decide

/-- `ONTIME` (R34). -/
theorem view_ontime : (view s 4).extractLsb' 0 16 = s.ontime ∧ (view s 4).extractLsb' 16 16 = 0 := by
  have h := s.ontime.isLt
  have e : view s 4 = BitVec.ofNat 32 s.ontime.toNat := (BitVec.ofNat_toNat 32 s.ontime).symm
  rw [e]
  constructor
  · exact field_eq (by omega)
  · exact field_eq_zero h

/-- `STATUS` (R34). -/
theorem view_status :
    (view s 5).extractLsb' 0 1 = s.wrbuf ∧ (view s 5).extractLsb' 1 1 = s.selbufR ∧ (view s 5).extractLsb' 2 1 = s.actbuf ∧
    (view s 5).getLsbD 3 = s.swaprdy ∧ (view s 5).getLsbD 4 = false ∧ (view s 5).getLsbD 5 = s.fault ∧
    (view s 5).getLsbD 6 = s.cmderr ∧ (view s 5).getLsbD 7 = s.run ∧ (view s 5).extractLsb' 8 3 = s.plane ∧
    (view s 5).extractLsb' 11 5 = s.mux ∧ (view s 5).extractLsb' 16 16 = 0 := by
  have h1 := s.wrbuf.isLt
  have h2 := s.selbufR.isLt
  have h3 := s.actbuf.isLt
  have h4 := s.swaprdy.toNat_le
  have h5 := s.fault.toNat_le
  have h6 := s.cmderr.toNat_le
  have h7 := s.run.toNat_le
  have h8 := s.plane.isLt
  have h9 := s.mux.isLt
  refine ⟨field_eq ?_, field_eq ?_, field_eq ?_, bit_eq ?_, bit_eq_false ?_, bit_eq ?_, bit_eq ?_, bit_eq ?_, field_eq ?_,
    field_eq ?_, field_eq_zero ?_⟩ <;> omega

/-- `FINFO` (R34). -/
theorem view_finfo :
    (view s 6).extractLsb' 0 3 = s.fcause ∧ (view s 6).extractLsb' 3 3 = s.fplane ∧ (view s 6).extractLsb' 6 5 = s.fmux ∧
    (view s 6).extractLsb' 11 1 = s.fbuf ∧ (view s 6).extractLsb' 12 20 = 0 := by
  have h1 := s.fcause.isLt
  have h2 := s.fplane.isLt
  have h3 := s.fmux.isLt
  have h4 := s.fbuf.isLt
  refine ⟨field_eq ?_, field_eq ?_, field_eq ?_, field_eq ?_, field_eq_zero ?_⟩ <;> omega

variable {s} (h : configLegal s.cfg = true)
include h

/-- `GEOM` (R34). -/
theorem view_geom : ((view s 0).extractLsb' 0 16).toNat = s.cfg.w ∧ ((view s 0).extractLsb' 16 16).toNat = s.cfg.h := by
  obtain ⟨⟨-, hw, -, -, hh, -⟩, -⟩ := (configLegal_iff s.cfg).mp h
  constructor
  · exact (toNat_field _ _ _).trans (by omega)
  · exact (toNat_field _ _ _).trans (by omega)

/-- `CFG` (R34). -/
theorem view_cfg :
    ((view s 1).extractLsb' 0 6).toNat = s.cfg.rp ∧
    (view s 1).extractLsb' 6 1 = BitVec.ofNat 1 (muxCode s.cfg.muxPattern) ∧
    (view s 1).extractLsb' 7 2 = BitVec.ofNat 2 (scanCode s.cfg.scanPattern) ∧
    (view s 1).getLsbD 9 = s.cfg.rotate ∧
    (view s 1).extractLsb' 10 1 = BitVec.ofNat 1 (txCode s.cfg.txOrder) ∧
    (view s 1).extractLsb' 11 1 = BitVec.ofNat 1 (revnibCode s.cfg.revnibHalf) ∧
    ((view s 1).extractLsb' 12 4).toNat = s.cfg.nAddr ∧ ((view s 1).extractLsb' 16 3).toNat = s.cfg.gStagger ∧
    ((view s 1).extractLsb' 19 3).toNat = s.cfg.bStagger ∧ (view s 1).extractLsb' 22 10 = 0 := by
  have hrp := (legal_rp_bounds h).2
  have hmux := muxCode_le s.cfg.muxPattern
  have hscan := scanCode_le s.cfg.scanPattern
  have hrot := s.cfg.rotate.toNat_le
  have htx := txCode_le s.cfg.txOrder
  have hrev := revnibCode_le s.cfg.revnibHalf
  have hn := legal_nAddr h
  obtain ⟨hg, hb⟩ := legal_staggers h
  refine ⟨(toNat_field _ _ _).trans ?_, field_eq_ofNat ?_, field_eq_ofNat ?_, bit_eq ?_, field_eq_ofNat ?_, field_eq_ofNat ?_,
    (toNat_field _ _ _).trans ?_, (toNat_field _ _ _).trans ?_, (toNat_field _ _ _).trans ?_, field_eq_zero ?_⟩ <;> omega

/-- `OFFS` (R34). -/
theorem view_offs :
    ((view s 2).extractLsb' 0 8).toInt = s.cfg.redOffset ∧ ((view s 2).extractLsb' 8 8).toInt = s.cfg.greenOffset ∧
    ((view s 2).extractLsb' 16 8).toInt = s.cfg.blueOffset ∧ (view s 2).extractLsb' 24 8 = 0 := by
  obtain ⟨-, ⟨hr, hg, hb, -⟩, -⟩ := (configLegal_iff s.cfg).mp h
  have h1 := (BitVec.ofInt 8 s.cfg.redOffset).isLt
  have h2 := (BitVec.ofInt 8 s.cfg.greenOffset).isLt
  have h3 := (BitVec.ofInt 8 s.cfg.blueOffset).isLt
  have field {lo : Nat} {o : Int} (ho : -128 ≤ o ∧ o ≤ 127) (e : (view s 2).extractLsb' lo 8 = BitVec.ofInt 8 o) :
      ((view s 2).extractLsb' lo 8).toInt = o := by rw [e, toInt_ofInt_offset ho]
  refine ⟨field hr (field_eq ?_), field hg (field_eq ?_), field hb (field_eq ?_), field_eq_zero ?_⟩ <;> omega

end

/-- Settles O14, register by register; the codes are those of the table. -/
theorem viewHoldsTheFields : Obligations.ViewHoldsTheFields := by
  unfold Obligations.ViewHoldsTheFields
  intro s h
  obtain ⟨w, height⟩ := view_geom h
  obtain ⟨rp, mux, scan, rot, tx, rev, nAddr, gStagger, bStagger, cfgRest⟩ := view_cfg h
  obtain ⟨red, green, blue, offsRest⟩ := view_offs h
  obtain ⟨run, ctrlRest⟩ := view_ctrl s
  obtain ⟨ontime, ontimeRest⟩ := view_ontime s
  obtain ⟨wrbuf, selbufR, actbuf, swaprdy, reserved, fault, cmderr, runCopy, plane, position, statusRest⟩ := view_status s
  obtain ⟨fcause, fplane, fmux, fbuf, finfoRest⟩ := view_finfo s
  exact ⟨w, height, rp, mux.trans (by cases s.cfg.muxPattern <;> rfl), scan.trans (by cases s.cfg.scanPattern <;> rfl), rot,
    tx.trans (by cases s.cfg.txOrder <;> rfl), rev.trans (by cases s.cfg.revnibHalf <;> rfl), nAddr, gStagger, bStagger, cfgRest,
    red, green, blue, offsRest, run, ctrlRest, ontime, ontimeRest, wrbuf, selbufR, actbuf, swaprdy, reserved, fault, cmderr, runCopy,
    plane, position, statusRest, fcause, fplane, fmux, fbuf, finfoRest, rfl⟩

end Sys2Proof.Machine
end

section
/-! SUPPORT. The layout of a plane block (20_memory.md R68, R69): a byte is a cell of a slice, named by its multiplexer address, sector, column of
eight pixels and channel; so the layout and its inverse undo each other, and the wire sends each cell where the layout says. -/

namespace Sys2Proof.Machine

/-! Cells -/

/-- The number of a cell in its slice, counted from the slice's last byte (R69). -/
def cellNumber (c : Config) (sector column : Nat) (ch : Channel) : Nat :=
  ch.index * channelBytes c + (sector * rowBytes c + column)

/-- The offset of a cell in a plane block (R68). -/
def cellOffset (c : Config) (mux sector column : Nat) (ch : Channel) : Nat :=
  mux * sliceBytes c + (sliceBytes c - 1 - cellNumber c sector column ch)

/-- A bit of a byte of row `y2`, mirrored where the row is (R125). -/
def mirrorBit (c : Config) (y2 i : Nat) : Nat := if mirrored c y2 then 7 - i else i

theorem mirrorBit_lt (c : Config) (y2 : Nat) {i : Nat} (h : i < 8) : mirrorBit c y2 i < 8 := by
  unfold mirrorBit
  split <;> omega

theorem mirrorBit_mirrorBit (c : Config) (y2 : Nat) {i : Nat} (h : i < 8) : mirrorBit c y2 (mirrorBit c y2 i) = i := by
  unfold mirrorBit
  split <;> omega

theorem bitIndex_eq_mirrorBit (c : Config) (x2 y2 : Nat) : bitIndex c x2 y2 = mirrorBit c y2 (x2 % 8) := rfl

theorem channelOf_index (ch : Channel) : channelOf ch.index = ch := by cases ch <;> rfl

theorem index_channelOf {k : Nat} (h : k < 3) : (channelOf k).index = k := by
  interval_cases k <;> rfl

/-- The two digits of a number. -/
theorem div_mod_of_digits {q r b : Nat} (h : r < b) : (q * b + r) / b = q ∧ (q * b + r) % b = r :=
  (Nat.div_mod_unique (Nat.zero_lt_of_lt h)).mpr ⟨by rw [Nat.mul_comm, Nat.add_comm], h⟩

/-- A number below a product of bases, by its digits. -/
theorem digits_lt_mul {q r a b : Nat} (hq : q < a) (hr : r < b) : q * b + r < a * b :=
  calc q * b + r < (q + 1) * b := by rw [Nat.succ_mul]; omega
    _ ≤ a * b := Nat.mul_le_mul_right _ hq

section
variable {c : Config} {mux sector column : Nat} (hs : sector < sectors c) (hb : column < rowBytes c) (ch : Channel)
include hs hb

theorem cellNumber_lt : cellNumber c sector column ch < sliceBytes c :=
  digits_lt_mul (by cases ch <;> decide) (digits_lt_mul hs hb)

theorem cellOffset_lt (hm : mux < c.rp) : cellOffset c mux sector column ch < planeBytes c := by
  have hk := cellNumber_lt hs hb ch
  exact digits_lt_mul hm (by omega)

/-- R69: the inverse map reads a cell off its offset. -/
theorem pixelAt_cellOffset (i : Nat) : pixelAt c (cellOffset c mux sector column ch) i =
    (8 * column + mirrorBit c (sector * c.rp + mux) i, sector * c.rp + mux, ch) := by
  have hk := cellNumber_lt hs hb ch
  have hback : sliceBytes c - 1 - (sliceBytes c - 1 - cellNumber c sector column ch) = cellNumber c sector column ch := by omega
  obtain ⟨hmux, hoff⟩ : cellOffset c mux sector column ch / sliceBytes c = mux ∧
      cellOffset c mux sector column ch % sliceBytes c = sliceBytes c - 1 - cellNumber c sector column ch :=
    div_mod_of_digits (by omega)
  obtain ⟨hindex, hrest⟩ : cellNumber c sector column ch / channelBytes c = ch.index ∧
      cellNumber c sector column ch % channelBytes c = sector * rowBytes c + column :=
    div_mod_of_digits (digits_lt_mul hs hb)
  obtain ⟨hsector, hcolumn⟩ := div_mod_of_digits (q := sector) hb
  simp only [pixelAt, hmux, hoff, hback, hindex, hrest, hsector, hcolumn, channelOf_index, mirrorBit]

end

/-- R69: every offset of a plane block is a cell's. -/
theorem exists_cellOffset {c : Config} {o : Nat} (h : o < planeBytes c) : ∃ mux sector column ch,
    mux < c.rp ∧ sector < sectors c ∧ column < rowBytes c ∧ cellOffset c mux sector column ch = o := by
  have hslice : 0 < sliceBytes c := Nat.pos_of_mul_pos_left (Nat.zero_lt_of_lt h)
  have hchannel : 0 < channelBytes c := Nat.pos_of_mul_pos_left hslice
  have hrow : 0 < rowBytes c := Nat.pos_of_mul_pos_left hchannel
  let k := sliceBytes c - 1 - o % sliceBytes c
  have hk : k < 3 * channelBytes c := show k < sliceBytes c by omega
  have hnumber : cellNumber c (k % channelBytes c / rowBytes c) (k % channelBytes c % rowBytes c) (channelOf (k / channelBytes c)) = k := by
    rw [cellNumber, index_channelOf (Nat.div_lt_of_lt_mul (by rwa [Nat.mul_comm])), Nat.div_add_mod', Nat.div_add_mod']
  refine ⟨o / sliceBytes c, k % channelBytes c / rowBytes c, k % channelBytes c % rowBytes c, channelOf (k / channelBytes c),
    Nat.div_lt_of_lt_mul (by rwa [Nat.mul_comm]), Nat.div_lt_of_lt_mul ?_, Nat.mod_lt _ hrow, ?_⟩
  · rw [Nat.mul_comm]
    exact Nat.mod_lt _ hchannel
  · have hmod := Nat.mod_lt o hslice
    rw [cellOffset, hnumber, show sliceBytes c - 1 - k = o % sliceBytes c by omega, Nat.div_add_mod']

/-! Pixels -/

section
variable {c : Config} (h : configLegal c = true)
include h

section
variable {x2 y2 : Nat} (hx : x2 < c.w) (hy : y2 < c.h) (ch : Channel)
include hx

theorem legal_column : x2 / 8 < rowBytes c := by
  have hw := legal_w h
  omega

include hy

/-- R123: the byte of a pixel's channel is a cell. -/
theorem baseOffset_eq_cellOffset : baseOffset c x2 y2 ch = cellOffset c (y2 % c.rp) (y2 / c.rp) (x2 / 8) ch := by
  rw [(baseOffset_eq h hx hy ch).2, Nat.add_assoc]
  rfl

theorem baseOffset_lt : baseOffset c x2 y2 ch < planeBytes c := by
  obtain ⟨hmux, hsector⟩ := legal_row h hy
  exact baseOffset_eq_cellOffset h hx hy ch ▸ cellOffset_lt hsector (legal_column h hx) ch hmux

/-- R69: the inverse map finds every pixel and channel. -/
theorem pixelAt_baseOffset : pixelAt c (baseOffset c x2 y2 ch) (bitIndex c x2 y2) = (x2, y2, ch) := by
  rw [baseOffset_eq_cellOffset h hx hy, pixelAt_cellOffset (legal_row h hy).2 (legal_column h hx), Nat.div_add_mod',
    bitIndex_eq_mirrorBit, mirrorBit_mirrorBit c y2 (Nat.mod_lt _ (by decide)), Nat.div_add_mod]

end

/-- R69: the pixel and channel the inverse map gives are the ones of the bit. -/
theorem baseOffset_pixelAt {o i : Nat} (ho : o < planeBytes c) (hi : i < 8) :
    (pixelAt c o i).1 < c.w ∧ (pixelAt c o i).2.1 < c.h ∧
    baseOffset c (pixelAt c o i).1 (pixelAt c o i).2.1 (pixelAt c o i).2.2 = o ∧
    bitIndex c (pixelAt c o i).1 (pixelAt c o i).2.1 = i := by
  obtain ⟨mux, sector, column, ch, hm, hs, hb, rfl⟩ := exists_cellOffset ho
  rw [pixelAt_cellOffset hs hb]
  have hbit := mirrorBit_lt c (sector * c.rp + mux) hi
  obtain ⟨hsector, hmux⟩ := div_mod_of_digits (q := sector) hm
  have hx : 8 * column + mirrorBit c (sector * c.rp + mux) i < c.w := by
    have hw := legal_w h
    omega
  have hy : sector * c.rp + mux < c.h := by
    rw [legal_h h, Nat.mul_comm c.rp]
    exact digits_lt_mul hs hm
  refine ⟨hx, hy, ?_, ?_⟩
  · rw [baseOffset_eq_cellOffset h hx hy, hsector, hmux, show (8 * column + mirrorBit c (sector * c.rp + mux) i) / 8 = column by omega]
  · rw [bitIndex_eq_mirrorBit, show (8 * column + mirrorBit c (sector * c.rp + mux) i) % 8 = mirrorBit c (sector * c.rp + mux) i by omega,
      mirrorBit_mirrorBit c _ hi]

end

/-- Settles O45: both maps read and write the digits of a cell. -/
theorem layoutIsABijection : Obligations.LayoutIsABijection := by
  unfold Obligations.LayoutIsABijection
  intro c h
  exact ⟨fun x2 y2 ch hx hy => ⟨baseOffset_lt h hx hy ch, bitIndex_lt c x2 y2, pixelAt_baseOffset h hx hy ch⟩,
    fun o i ho hi => baseOffset_pixelAt h ho hi⟩

/-! The wire -/

/-- R63, R92: the byte sent at a pixel's position is the pixel's byte. -/
theorem txOffset_wirePosition {c : Config} (h : configLegal c = true) {x2 y2 : Nat} (hx : x2 < c.w) (hy : y2 < c.h) (q : Nat) (ch : Channel) :
    wirePosition c x2 y2 ch < sliceBytes c ∧
    txOffset c q (y2 % c.rp) (wirePosition c x2 y2 ch) = q * planeBytes c + baseOffset c x2 y2 ch := by
  obtain ⟨hlt, hbase⟩ := baseOffset_eq h hx hy ch
  unfold wirePosition txOffset sliceBase
  cases c.txOrder <;> simp only <;> omega

/-- A byte of a slice, by its number on the wire (R92). -/
theorem getD_wireBytes (c : Config) (m : Memory) (b : BufNo) (q mux : Nat) {j : Nat} (hj : j < sliceBytes c) :
    (wireBytes c m b q mux).getD j 0 = m.read b (txOffset c q mux j) := by
  rw [List.getD_eq_getElem _ _ (by rwa [wireBytes_length])]
  simp [wireBytes]

/-- Settles O35: the position names the pixel's byte in both orders, and the address is the pixel's row's. -/
theorem wireCarriesEachPixelInItsByte : Obligations.WireCarriesEachPixelInItsByte := by
  unfold Obligations.WireCarriesEachPixelInItsByte
  intro c m b q x2 y2 ch h hx hy
  obtain ⟨hlt, hoff⟩ := txOffset_wirePosition h hx hy q ch
  rw [ledLit, getD_wireBytes c m b q _ hlt, hoff, decide_eq_true rfl, Bool.true_and, pixelBit]

/-! The planes -/

theorem thresholdOf_lt (c : Config) {q : Nat} (hq : q < 8) (ch : Channel) : thresholdOf c q ch < 8 := by
  cases ch <;> simp only [thresholdOf] <;> omega

/-- R70: the stagger taken off and put on again. -/
theorem planeOf_thresholdOf {c : Config} (h : configLegal c = true) {q : Nat} (hq : q < 8) (ch : Channel) :
    planeOf c (thresholdOf c q ch) ch = q := by
  obtain ⟨hg, hb⟩ := legal_staggers h
  cases ch <;> simp only [planeOf, thresholdOf] <;> omega

/-- Settles O46: the formula of R70 inverts `planeOf`, and neither of the two patterns mirrors a row. -/
theorem planesHoldTheirThresholds : Obligations.PlanesHoldTheirThresholds := by
  unfold Obligations.PlanesHoldTheirThresholds
  exact ⟨fun c q ch h hq => ⟨thresholdOf_lt c hq ch, planeOf_thresholdOf h hq ch⟩, fun _ _ _ _ _ _ _ => rfl⟩

end Sys2Proof.Machine
end

section
/-! SUPPORT. A run of writes decides the bits it names, whatever they were, so a second time it changes nothing (20_memory.md R65,
40_pixel_encode.md R126). -/

namespace Sys2Proof.Machine

/-- Two memories that agree on the bits a run of writes does not name agree everywhere after it. -/
theorem Memory.getLsbD_read_setBits_congr {m m' : Memory} (h : m.wf = true) (h' : m'.wf = true) {ws : List BitWrite}
    (hw : ∀ w ∈ ws, w.bit < 8)
    (e : ∀ b a i, (∀ w ∈ ws, ¬ (b = w.buf ∧ a = w.off ∧ i = w.bit)) → (m.read b a).getLsbD i = (m'.read b a).getLsbD i)
    (b : BufNo) (a i : Nat) : ((m.setBits ws).read b a).getLsbD i = ((m'.setBits ws).read b a).getLsbD i := by
  induction ws generalizing m m' with
  | nil => exact e b a i fun w hw => nomatch hw
  | cons w ws ih =>
    obtain ⟨hwbit, hwsbit⟩ := List.forall_mem_cons.mp hw
    refine ih (Memory.wf_setBit h w) (Memory.wf_setBit h' w) hwsbit fun b a i hn => ?_
    rw [Memory.getLsbD_read_setBit h w hwbit, Memory.getLsbD_read_setBit h' w hwbit]
    split
    · rfl
    · rename_i hne
      exact e b a i (List.forall_mem_cons.mpr ⟨hne, hn⟩)

/-- A run of writes performed twice is the run performed once, as data. -/
theorem Memory.setBits_setBits {m : Memory} (h : m.wf = true) {ws : List BitWrite} (hw : ∀ w ∈ ws, w.bit < 8) :
    (m.setBits ws).setBits ws = m.setBits ws := by
  have h1 := Memory.wf_setBits h ws
  obtain ⟨hlaunch, hinit0, hinit1⟩ := (m.setBits ws).setBits_launch ws
  refine (Memory.ext_read h1 (Memory.wf_setBits h1 ws) hlaunch hinit0 hinit1 fun b a => BitVec.eq_of_getLsbD_eq fun i _ => ?_).symm
  exact Memory.getLsbD_read_setBits_congr h h1 hw (fun b a i hn => (Memory.getLsbD_read_setBits_of_not_mem h hw hn).symm) b a i

theorem pixelWrites_bit_lt {c : Config} {tb : BufNo} {x2 y2 r g b : Nat} : ∀ w ∈ pixelWrites c tb x2 y2 r g b, w.bit < 8 := by
  intro w hw
  obtain ⟨p, ch, -, rfl⟩ := mem_pixelWrites.mp hw
  exact bitIndex_lt c x2 y2

/-- Settles O42: the 24 writes are a run of writes to bits 0 to 7. -/
theorem writingTwiceIsWritingOnce : Obligations.WritingTwiceIsWritingOnce := by
  unfold Obligations.WritingTwiceIsWritingOnce
  intro c m tb x2 y2 r g b _ h _ _
  exact Memory.setBits_setBits h pixelWrites_bit_lt

end Sys2Proof.Machine
end

section
/-! SUPPORT. The scanner and the writer's part of the state (20_memory.md R74, R75): of the buffers, the owed writes and the hold mark the
scanner's actions see only the bytes of their own slice. -/

namespace Sys2Proof.Machine

/-- The state with the buffers, the owed writes and the hold mark replaced. -/
def State.withWriter (s : State) (m : Memory) (q : List BitWrite) (b : Bool) : State := { s with mem := m, wq := q, hold := b }

section
variable (s : State) (m : Memory) (q : List BitWrite) (b : Bool)

theorem State.writes_eq_withWriter (n : Nat) : s.writes n = s.withWriter (s.mem.setBits (s.wq.take n)) (s.wq.drop n) s.hold := rfl

theorem State.withWriter_ite (t : State) (p : Prop) [Decidable p] :
    (if p then s else t).withWriter m q b = if p then s.withWriter m q b else t.withWriter m q b :=
  apply_ite (State.withWriter · m q b) ..

@[simp] theorem State.withWriter_cfg : (s.withWriter m q b).cfg = s.cfg := rfl
@[simp] theorem State.withWriter_mem : (s.withWriter m q b).mem = m := rfl
@[simp] theorem State.withWriter_scan : (s.withWriter m q b).scan = s.scan := rfl

theorem State.emit_withWriter (e : Event) : (s.withWriter m q b).emit e = (s.emit e).withWriter m q b := rfl

theorem State.cycleStarted_withWriter : (s.withWriter m q b).cycleStarted = s.cycleStarted.withWriter m q b := by
  unfold State.cycleStarted
  rw [State.withWriter_ite]
  rfl

theorem State.cycleBoundary_withWriter : (s.withWriter m q b).cycleBoundary = s.cycleBoundary.withWriter m q b := by
  unfold State.cycleBoundary
  rw [State.withWriter_ite]
  rfl

theorem State.advance_withWriter : (s.withWriter m q b).advance = s.advance.withWriter m q b := by
  unfold State.advance
  rw [State.withWriter_ite, State.withWriter_ite, ← State.cycleBoundary_withWriter]
  rfl

theorem scanBegin_withWriter (j : ScanJob) : scanBegin j (s.withWriter m q b) = (scanBegin j s).withWriter m q b := by
  unfold scanBegin
  rw [State.cycleStarted_withWriter, State.withWriter_ite, State.withWriter_ite]
  rfl

theorem scanByte_withWriter {j : ScanJob} {k : Nat}
    (h : m.read j.buf (txOffset s.cfg j.plane.toNat j.mux.toNat k) = s.mem.read j.buf (txOffset s.cfg j.plane.toNat j.mux.toNat k)) :
    scanByte j k (s.withWriter m q b) = (scanByte j k s).withWriter m q b := by
  unfold scanByte
  rw [State.withWriter_mem, State.withWriter_cfg, h, State.withWriter_ite]
  rfl

theorem scanLatch_withWriter (j : ScanJob) : scanLatch j (s.withWriter m q b) = (scanLatch j s).withWriter m q b := by
  unfold scanLatch
  rw [State.withWriter_ite]
  rfl

theorem scanEnable_withWriter (j : ScanJob) : scanEnable j (s.withWriter m q b) = (scanEnable j s).withWriter m q b := by
  unfold scanEnable
  rw [State.emit_withWriter, State.advance_withWriter, State.withWriter_ite, State.withWriter_ite]
  rfl

/-- An action is the same over two memories that agree on the bytes the step in progress reads. -/
theorem scanAction_withWriter
    (h : ∀ j, s.scan = some j → j.pos ≠ 0 → ∀ a, j.Reads s.cfg j.buf a → m.read j.buf a = s.mem.read j.buf a) :
    scanAction (s.withWriter m q b) = (scanAction s).withWriter m q b := by
  unfold scanAction
  rw [State.withWriter_scan]
  cases hs : s.scan with
  | none => rfl
  | some j =>
    simp only [State.withWriter_ite, State.withWriter_cfg, scanBegin_withWriter, scanLatch_withWriter, scanEnable_withWriter]
    split
    · rfl
    · rename_i h0
      split
      · rename_i hp
        refine scanByte_withWriter s m q b (h j hs h0 _ ⟨rfl, ?_⟩)
        exact txOffset_bounds (by omega)
      · rfl

end

/-! Turns in either order -/

/-- R74: one action and a turn of the writer that touches no byte of the slice in progress. -/
theorem scanAction_writes {s : State} {n : Nat}
    (h : ∀ j, s.scan = some j → j.pos ≠ 0 → ∀ w ∈ s.wq.take n, ¬ j.Reads s.cfg w.buf w.off) :
    scanAction (s.writes n) = (scanAction s).writes n := by
  have keeps := scanAction_keeps s
  rw [State.writes_eq_withWriter, scanAction_withWriter, State.writes_eq_withWriter, keeps.mem, keeps.wq, keeps.hold]
  intro j hs h0 a ha
  refine Memory.read_setBits_of_not_mem _ fun w hw ⟨hbuf, hoff⟩ => h j hs h0 w hw ?_
  rwa [← hbuf, ← hoff]

/-- An action before a step's last ends the job or goes on to the next one of the same slice. -/
theorem scanAction_inStep {s : State} {j : ScanJob} (hs : s.scan = some j) (h0 : j.pos ≠ 0) (hp : j.pos < sliceBytes s.cfg + 2) :
    (scanAction s).scan = none ∨ (scanAction s).scan = some { j with pos := j.pos + 1 } := by
  by_cases hb : j.pos ≤ sliceBytes s.cfg
  · rw [scanAction_byte (k := j.pos - 1) hs (by omega) (by omega)]
    unfold scanByte
    split
    · exact .inl rfl
    · rw [State.setScan_scan, show j.pos - 1 + 2 = j.pos + 1 by omega]
      exact .inr rfl
  · rw [scanAction_latch hs (by omega)]
    unfold scanLatch
    split
    · exact .inl rfl
    · exact .inr rfl

/-- R74: a turn of the scanner within its step and a turn of the writer that touches no byte of the step's slice. -/
theorem scanActions_writes {s : State} {j : ScanJob} {n k : Nat} (hs : s.scan = some j) (h0 : j.pos ≠ 0)
    (hk : k + j.pos ≤ stepActions s.cfg) (hd : ∀ w ∈ s.wq.take n, ¬ j.Reads s.cfg w.buf w.off) :
    scanActions k (s.writes n) = (scanActions k s).writes n := by
  induction k generalizing s j with
  | zero => rfl
  | succ k ih =>
    have keeps := scanAction_keeps s
    rw [scanActions, scanActions, scanAction_writes fun j' hs' _ => by cases hs.symm.trans hs'; exact hd]
    cases k with
    | zero => rfl
    | succ k =>
      rcases scanAction_inStep hs h0 (by unfold stepActions at hk; omega) with hnone | hnext
      · rw [scanActions_of_none hnone, scanActions_of_none (s := (scanAction s).writes n) hnone]
      · refine ih hnext (Nat.succ_ne_zero _) ?_ ?_
        · rw [keeps.cfg]
          show k + 1 + (j.pos + 1) ≤ _
          omega
        · rw [keeps.wq, keeps.cfg]
          exact hd

/-- R300: a writer that keeps to the tear-free rule owes no write to a slice of the active buffer. -/
theorem State.TearFree.not_reads {s : State} (h : s.TearFree) {j : ScanJob} (hj : j.buf = s.actbuf) {n : Nat} :
    ∀ w ∈ s.wq.take n, ¬ j.Reads s.cfg w.buf w.off :=
  fun w hw ⟨hbuf, _⟩ => (h w (List.mem_of_mem_take hw)).1 (hbuf.trans hj)

/-- Settles O47: an action sees of the buffers only its slice, which the disjoint writes leave alone. -/
theorem disjointTurnsCommute : Obligations.DisjointTurnsCommute := by
  unfold Obligations.DisjointTurnsCommute
  exact ⟨fun s j n k hs h0 hk hd => scanActions_writes hs h0 hk hd,
    fun s n htear hbuf => scanAction_writes fun j hs h0 => htear.not_reads (hbuf j hs h0)⟩

end Sys2Proof.Machine
end

section
/-! SUPPORT. A held operation leaves its byte accesses to later turns (20_memory.md R74), and two turns that perform them all end where the
operation that runs at once ends. -/

namespace Sys2Proof.Machine

/-- The state in which the operation to come is held. -/
def State.held (s : State) : State := { s with hold := true }

/-! The pixel operations -/

/-- R72: the 24 writes of a pixel in range lie inside the buffer. -/
theorem pixelWrites_off_lt {c : Config} (h : configLegal c = true) {tb : BufNo} {x2 y2 r g b : Nat} (hx : x2 < c.w) (hy : y2 < c.h) :
    ∀ w ∈ pixelWrites c tb x2 y2 r g b, w.off < frameBytes c := by
  intro w hw
  obtain ⟨p, ch, hp, rfl⟩ := mem_pixelWrites.mp hw
  have hplane : planeOf c p ch < 8 := by cases ch <;> simp only [planeOf] <;> omega
  exact digits_lt_mul hplane (baseOffset_lt h hx hy ch)

/-- The writes of two turns, the second of which performs all that the first leaves. -/
theorem State.writes_writes_all (s : State) (n : Nat) :
    (s.writes n).writes (s.writes n).wq.length = { s with mem := s.mem.setBits s.wq, wq := [] } := by
  simp only [State.writes, List.take_length, List.drop_length, ← Memory.setBits_append, List.take_append_drop]

/-- The operation `k` of the writer, held and resumed in two turns of which the first makes `n` writes, ends as `k` at once. -/
def WriterResumes (k : State → Host.Outcome State Fault Refusal) (n : Nat) (s : State) : Prop :=
  ∃ u v t, k s.held = .next u ∧ runWriter n u = .next v ∧ runWriter v.wq.length v = .next t.held ∧ k s = .next t

/-- Owed writes that exist (R126). -/
theorem startWriter_resumes {ws : List BitWrite} {s : State} (hi : s.WriterIdle) (hw : ∀ w ∈ ws, w.off < frameBytes s.cfg) (n : Nat) :
    WriterResumes (startWriter ws) n s := by
  obtain ⟨hq, hh⟩ := hi
  let u : State := { s.held with wq := s.wq ++ ws }
  have huq : u.wq = ws := congrArg (· ++ ws) hq
  have hexist : ∀ w ∈ u.wq, w.off < frameBytes s.cfg := huq ▸ hw
  refine ⟨u, u.writes n, _, rfl, runWriter_of_exist fun w hm => hexist w (List.mem_of_mem_take hm), ?_, startWriter_whole hq hh hw⟩
  refine (runWriter_of_exist (s := u.writes n) fun w hm => hexist w (List.mem_of_mem_drop (List.mem_of_mem_take hm))).trans ?_
  rw [State.writes_writes_all, huq, ← hq]
  rfl

/-- With nothing owed a turn of the writer does nothing. -/
theorem runWriter_of_nil {s : State} (h : s.wq = []) (n : Nat) : runWriter n s = .next s := by
  have hwrites : s.writes n = { s with wq := [] } := by
    rw [State.writes, h, List.take_nil, List.drop_nil]
    rfl
  rw [runWriter_of_exist (by simp [h]), hwrites, ← h]

/-- A pixel, in range or not (R120, R126). -/
theorem writePixel_resumes (tb : BufNo) (x y : BitVec 16) (r g b : BitVec 8) {s : State} (h : configLegal s.cfg = true)
    (hi : s.WriterIdle) (n : Nat) : WriterResumes (writePixel tb x y r g b) n s := by
  unfold WriterResumes writePixel
  by_cases hp : inPanel s.cfg (transform s.cfg x.toInt y.toInt) = true
  · obtain ⟨⟨-, hx⟩, -, hy⟩ := inPanel_iff.mp hp
    simp only [State.held, hp, if_true]
    exact startWriter_resumes hi (pixelWrites_off_lt h hx hy) n
  · simp only [State.held, hp]
    exact ⟨s.held, s.held, s, rfl, runWriter_of_nil (s := s.held) hi.1 n, runWriter_of_nil (s := s.held) hi.1 _, rfl⟩

/-! The scan operations -/

/-- The scanner's actions do not see the hold mark. -/
theorem scanActions_held (n : Nat) (s : State) : scanActions n s.held = (scanActions n s).held := by
  induction n generalizing s with
  | zero => rfl
  | succ n ih =>
    have keeps := scanAction_keeps s
    have haction : scanAction s.held = (scanAction s).held :=
      (scanAction_withWriter s s.mem s.wq true fun _ _ _ _ _ => rfl).trans (by rw [← keeps.mem, ← keeps.wq]; rfl)
    rw [scanActions, haction, ih, scanActions]

/-- The address the job in progress reads next exists, and so does the sequencer's position (R24, R72). -/
def State.AddressesExist (s : State) : Prop := s.PositionInv ∧ ∀ j, s.scan = some j → j.mux.toNat < s.cfg.rp

/-- A step begins at an address that exists, and the job keeps it. -/
theorem ScanMove.addressesExist {s t : State} (m : ScanMove s t) (h : s.AddressesExist) : t.AddressesExist := by
  obtain ⟨hp, hjob⟩ := h
  refine ⟨m.positionInv hp, fun j' hj' => ?_⟩
  cases m with
  | idle => exact hjob j' hj'
  | stopped | failed => cases hj'
  | beginSequenced => cases hj'; simpa [beginStep] using hp.2
  | beginDirect hs | sent _ hs | latched hs => cases hj'; exact (hjob _ hs :)
  | enabledDirect hs => rw [ScanJob.next_mux hj']; exact hjob _ hs
  | enabledSequenced hs => rw [ScanJob.next_mux hj']; simpa using hjob _ hs

theorem State.AddressesExist.scanActions {s : State} (h : s.AddressesExist) (n : Nat) : (scanActions n s).AddressesExist := by
  induction n generalizing s with
  | zero => exact h
  | succ n ih => exact ih ((scanAction_move s).addressesExist h)

/-- Where the addresses exist a turn of the scanner is its actions (R72). -/
theorem State.AddressesExist.runScanner {s : State} (h : s.AddressesExist) (n : Nat) : runScanner n s = .next (Machine.scanActions n s) := by
  unfold Machine.runScanner
  split
  · rename_i hs
    rw [scanActions_of_none hs]
  · rename_i j hs
    rw [if_pos]
    rw [ScanJob.readsExist, sliceExists_of_lt j.plane.isLt (h.2 j hs), h.1.sliceExists, Bool.or_true, Bool.and_true]

/-- Where the addresses exist the job in progress is finished by actions that leave the scanner idle. -/
theorem State.AddressesExist.finishScanner {s : State} (h : s.AddressesExist) :
    ∃ n, finishScanner s = .next (Machine.scanActions n s) ∧ (Machine.scanActions n s).scan = none := by
  have hfinish : ∃ n, Machine.finishScanner s = .next (Machine.scanActions n s) := by
    unfold Machine.finishScanner
    split
    · exact ⟨0, rfl⟩
    · exact ⟨_, h.runScanner _⟩
  obtain ⟨n, hn⟩ := hfinish
  exact ⟨n, hn, finishScanner_idle hn⟩

/-- Two runs of the scanner that end idle end alike. -/
theorem scanActions_eq_of_idle {s : State} {m n : Nat} (hm : (scanActions m s).scan = none) (hn : (scanActions n s).scan = none) :
    scanActions m s = scanActions n s :=
  (scanActions_of_le hm (Nat.le_max_left m n)).symm.trans (scanActions_of_le hn (Nat.le_max_right m n))

/-- The operation `k` of the scanner, held and resumed in two turns of which the first makes `n` actions, ends as `k` at once. -/
def ScannerResumes (k : State → Host.Outcome State Fault Refusal) (n : Nat) (s : State) : Prop :=
  ∃ u v t, k s.held = .next u ∧ runScanner n u = .next v ∧ finishScanner v = .next t.held ∧ k s = .next t

/-- An operation that begins no job, held or not. -/
theorem scannerResumes_of_idle {k : State → Host.Outcome State Fault Refusal} {s t : State} (hheld : k s.held = .next t.held)
    (hk : k s = .next t) (ht : t.scan = none) (n : Nat) : ScannerResumes k n s := by
  refine ⟨t.held, t.held, t, hheld, ?_, finishScanner_of_none ht, hk⟩
  unfold runScanner
  rw [show t.held.scan = none from ht]

/-- A job that starts. -/
theorem startScanner_resumes {j : ScanJob} {s : State} (hp : s.PositionInv) (hj : j.mux.toNat < s.cfg.rp) (hi : s.ScannerIdle) (n : Nat) :
    ScannerResumes (startScanner j) n s := by
  let w := s.setScan (some j)
  have hw : w.AddressesExist := ⟨hp, fun _ e => by cases e; exact hj⟩
  have hu : w.held.AddressesExist := hw
  obtain ⟨m, hfinish, hidle⟩ := (hu.scanActions n).finishScanner
  refine ⟨w.held, _, scanActions (j.actionsLeft s.cfg) w, rfl, hu.runScanner n, ?_, ?_⟩
  · rw [hfinish, ← scanActions_held, ← scanActions_add]
    rw [← scanActions_add] at hidle
    refine congrArg _ (scanActions_eq_of_idle hidle (scanActions_end fun _ e => ?_))
    cases e
    exact Nat.le_refl _
  · unfold startScanner
    rw [hi.2, if_neg (by decide), hw.runScanner]

/-- An operation behind its gate, with no scan operation in progress. -/
theorem gatedScan_resumes {closed : State → Bool} {k : State → Host.Outcome State Fault Refusal} {n : Nat} {s : State} (hi : s.ScannerIdle)
    (hclosed : closed s.held = closed s) (hk : ScannerResumes k n s) : ScannerResumes (gatedScan closed k) n s := by
  obtain ⟨hs, -⟩ := hi
  cases hc : closed s with
  | true => exact scannerResumes_of_idle (gatedScan_closed (hclosed.trans hc)) (gatedScan_closed hc) hs n
  | false =>
    unfold ScannerResumes
    rw [gatedScan_open (hclosed.trans hc) hs, gatedScan_open hc hs]
    exact hk

section
variable {s : State} (hp : s.PositionInv) (hi : s.ScannerIdle) (n : Nat)
include hp hi

/-- The sequencer's steps, none or more (R175). -/
theorem scanSteps_resumes (k : Nat) : ScannerResumes (scanSteps k) n s := by
  cases k with
  | zero => exact scannerResumes_of_idle rfl rfl hi.1 n
  | succ k => exact startScanner_resumes hp hp.2 hi n

theorem execStep_resumes : ScannerResumes execStep n s := gatedScan_resumes hi rfl (scanSteps_resumes hp hi n 1)

theorem execTick_resumes : ScannerResumes execTick n s := gatedScan_resumes hi rfl (scanSteps_resumes hp hi n s.cfg.stepsPerTick)

/-- A `SCANSTEP`, rejected or not (R181). -/
theorem execScanstep_resumes (buf : BufNo) (plane : BitVec 3) (mux : BitVec 5) (t : BitVec 16) :
    ScannerResumes (execScanstep buf plane mux t) n s := by
  by_cases hr : (s.run || !WellFormed.muxInRange s.cfg mux) = true
  · exact scannerResumes_of_idle (t := s.commandError) (if_pos hr) (if_pos hr) hi.1 n
  · have hmux : mux.toNat < s.cfg.rp := by
      simp only [WellFormed.muxInRange, Bool.or_eq_true, Bool.not_eq_true', not_or, Bool.not_eq_false, decide_eq_true_eq] at hr
      exact hr.2
    have hgated : ScannerResumes (gatedScan State.fault (startScanner (directJob buf plane mux t))) n s :=
      gatedScan_resumes hi rfl (startScanner_resumes hp hmux hi n)
    obtain ⟨u, v, w, hu, hv, hw, hk⟩ := hgated
    exact ⟨u, v, w, (if_neg hr).trans hu, hv, hw, (if_neg hr).trans hk⟩

end

/-- Settles O48: the owed writes are split and joined again, and every run that ends idle is the job's whole. -/
theorem heldOperationsResumeToTheWhole : Obligations.HeldOperationsResumeToTheWhole := by
  unfold Obligations.HeldOperationsResumeToTheWhole
  constructor
  · intro i s n hm hc hi
    cases i with
    | setpx x y r g b => exact writePixel_resumes s.wrbuf x y r g b hc hi n
    | setpxb x y r g b t => exact writePixel_resumes t x y r g b hc hi n
    | _ => simp [Instr.mnemonic] at hm
  · intro i s n hm hp hi
    cases i with
    | tick => exact execTick_resumes hp hi n
    | step => exact execStep_resumes hp hi n
    | scanstep buf plane mux t => exact execScanstep_resumes hp hi n buf plane mux t
    | _ => simp [Instr.mnemonic] at hm

end Sys2Proof.Machine
end

section
/-! SUPPORT. The decoder and the encoder undo each other, format by format: a word decodes to an operation exactly when it is the operation's word
(30_encoding.md R96 to R99). -/

namespace Sys2Proof

/-! Fields that are 0 -/

/-- A bit field is 0 when no digit below its end lies above its start. -/
theorem bits_eq_zero_iff {w : Word} {lo len : Nat} : bits w lo len = 0 ↔ w.toNat % 2 ^ (lo + len) < 2 ^ lo := by
  rw [← BitVec.toNat_inj, toNat_bits, ← Nat.mod_mul_right_div_self, ← Nat.pow_add, BitVec.ofNat_eq_ofNat, BitVec.toNat_ofNat, Nat.zero_mod,
    Nat.div_eq_zero_iff_lt (Nat.two_pow_pos lo)]

theorem zeroZ_iff_toNat {w : Word} : zeroZ w = true ↔ w.toNat % 2 ^ 60 = 0 := by
  rw [zeroZ, beq_iff_eq, bits_eq_zero_iff]
  omega

theorem zeroP_iff_toNat {w : Word} : zeroP w = true ↔ w.toNat % 2 ^ 60 < 2 ^ 59 ∧ w.toNat % 2 ^ 58 < 2 ^ 56 := by
  rw [zeroP, Bool.and_eq_true, beq_iff_eq, beq_iff_eq, bits_eq_zero_iff, bits_eq_zero_iff]

/-- The zero fields of format I leave the immediate `n` bits (R97, R98). -/
theorem zeroI_iff_toNat {w : Word} {n : Nat} (hn : n ≤ 16) : zeroI w n = true ↔ w.toNat % 2 ^ 60 < 2 ^ n := by
  have hpow : 2 ^ n ≤ 2 ^ 16 := Nat.pow_le_pow_right (by decide) hn
  rw [zeroI, Bool.and_eq_true, beq_iff_eq, beq_iff_eq, bits_eq_zero_iff, bits_eq_zero_iff, Nat.add_sub_cancel' hn]
  omega

theorem zeroS_iff_toNat {w : Word} : zeroS w = true ↔ w.toNat % 2 ^ 60 < 2 ^ 25 := by
  rw [zeroS, beq_iff_eq, bits_eq_zero_iff]

/-! The word a format makes: its zero field is 0, and each field holds its operand (R97) -/

theorem zeroZ_wordZ (op : Nat) : zeroZ (wordZ op) = true := by
  rw [zeroZ_iff_toNat, wordZ, BitVec.toNat_ofNat]
  omega

/-- Format I: the immediate in its low `n` bits (R97, R98). -/
theorem fields_wordI (op : Nat) {n : Nat} (hn : n ≤ 16) (v : BitVec n) :
    zeroI (wordI op v.toNat) n = true ∧ bits (wordI op v.toNat) 0 n = v := by
  have hv := v.isLt
  have hpow : 2 ^ n ≤ 2 ^ 16 := Nat.pow_le_pow_right (by decide) hn
  have hdigits : (op * 2 ^ 60 + v.toNat) % 2 ^ 64 % 2 ^ 60 = v.toNat := by omega
  constructor
  · rwa [zeroI_iff_toNat hn, wordI, BitVec.toNat_ofNat, hdigits]
  · refine bits_ofNat_eq ?_
    rw [← Nat.mod_mod_of_dvd _ (Nat.pow_dvd_pow 2 (hn.trans (by decide : 16 ≤ 60))), Nat.pow_zero, Nat.div_one, hdigits, Nat.mod_eq_of_lt hv]

/-- Format P: the pixel and its colour (R97). -/
theorem fields_wordP (op : Nat) (t : BitVec 1) (x y : BitVec 16) (r g b : BitVec 8) :
    zeroP (wordP op t.toNat x y r g b) = true ∧ bits (wordP op t.toNat x y r g b) 58 1 = t ∧
    bits (wordP op t.toNat x y r g b) 40 16 = x ∧ bits (wordP op t.toNat x y r g b) 24 16 = y ∧
    bits (wordP op t.toNat x y r g b) 16 8 = r ∧ bits (wordP op t.toNat x y r g b) 8 8 = g ∧
    bits (wordP op t.toNat x y r g b) 0 8 = b := by
  have ht := t.isLt
  have hx := x.isLt
  have hy := y.isLt
  have hr := r.isLt
  have hg := g.isLt
  have hb := b.isLt
  refine ⟨?_, bits_ofNat_eq ?_, bits_ofNat_eq ?_, bits_ofNat_eq ?_, bits_ofNat_eq ?_, bits_ofNat_eq ?_, bits_ofNat_eq ?_⟩
  · rw [zeroP_iff_toNat, wordP, BitVec.toNat_ofNat]
    omega
  all_goals omega

/-- Format S: the arguments of a scan step (R97). -/
theorem fields_wordS (op : Nat) (buf : BufNo) (plane : BitVec 3) (mux : BitVec 5) (t : BitVec 16) :
    zeroS (wordS op buf plane mux t) = true ∧ bits (wordS op buf plane mux t) 24 1 = buf ∧
    bits (wordS op buf plane mux t) 21 3 = plane ∧ bits (wordS op buf plane mux t) 16 5 = mux ∧
    bits (wordS op buf plane mux t) 0 16 = t := by
  have hbuf := buf.isLt
  have hplane := plane.isLt
  have hmux := mux.isLt
  have ht := t.isLt
  refine ⟨?_, bits_ofNat_eq ?_, bits_ofNat_eq ?_, bits_ofNat_eq ?_, bits_ofNat_eq ?_⟩
  · rw [zeroS_iff_toNat, wordS, BitVec.toNat_ofNat]
    omega
  all_goals omega

/-! A word whose zero field is 0 is the one the format makes of its fields (R97) -/

section
variable {w : Word} {op : BitVec 4} (hop : opcode w = op)
include hop

/-- The opcode and the digits below it make the word (R96). -/
theorem eq_of_opcode {n : Nat} (h : n = op.toNat * 2 ^ 60 + w.toNat % 2 ^ 60) : BitVec.ofNat 64 n = w := by
  have hw := w.isLt
  have hdigits : w.toNat / 2 ^ 60 % 2 ^ 4 = op.toNat := by rw [← hop, opcode, toNat_bits]
  rw [show n = w.toNat by omega, BitVec.ofNat_toNat, BitVec.setWidth_eq]

theorem wordZ_of_zeroZ (hz : zeroZ w = true) : wordZ op.toNat = w := by
  rw [zeroZ_iff_toNat] at hz
  exact eq_of_opcode hop (by rw [hz, Nat.add_zero])

theorem wordI_of_zeroI {n : Nat} (hn : n ≤ 16) (hz : zeroI w n = true) : wordI op.toNat (bits w 0 n).toNat = w := by
  rw [zeroI_iff_toNat hn] at hz
  refine eq_of_opcode hop ?_
  rw [toNat_bits, Nat.pow_zero, Nat.div_one, ← Nat.mod_mod_of_dvd _ (Nat.pow_dvd_pow 2 (hn.trans (by decide : 16 ≤ 60))), Nat.mod_eq_of_lt hz]

theorem wordP_of_zeroP (hz : zeroP w = true) :
    wordP op.toNat (bits w 58 1).toNat (bits w 40 16) (bits w 24 16) (bits w 16 8) (bits w 8 8) (bits w 0 8) = w := by
  rw [zeroP_iff_toNat] at hz
  refine eq_of_opcode hop ?_
  simp only [toNat_bits]
  omega

theorem wordS_of_zeroS (hz : zeroS w = true) : wordS op.toNat (bits w 24 1) (bits w 21 3) (bits w 16 5) (bits w 0 16) = w := by
  rw [zeroS_iff_toNat] at hz
  refine eq_of_opcode hop ?_
  simp only [toNat_bits]
  omega

end

/-! Every operation -/

/-- R96, R99: an encoded word carries the operation's opcode. -/
theorem opcode_encode (i : Instr) : opcode (encode i) = i.op := by
  cases i with
  | nop => exact Laws.EncodedOpcode.nop
  | setpx x y r g b => exact Laws.EncodedOpcode.setpx x y r g b
  | setpxb x y r g b t => exact Laws.EncodedOpcode.setpxb x y r g b t
  | selbuf which => exact Laws.EncodedOpcode.selbuf which
  | swap => exact Laws.EncodedOpcode.swap
  | setont us => exact Laws.EncodedOpcode.setont us
  | power on => exact Laws.EncodedOpcode.power on
  | rdreg n => exact Laws.EncodedOpcode.rdreg n
  | tick => exact Laws.EncodedOpcode.tick
  | step => exact Laws.EncodedOpcode.step
  | scanstep buf plane mux t => exact Laws.EncodedOpcode.scanstep buf plane mux t
  | swtmo => exact Laws.EncodedOpcode.swtmo

theorem ifZero_wordZ (op : Nat) (j : Instr) : ifZero (zeroZ (wordZ op)) j = .ok j :=
  ifZero_eq_ok.mpr ⟨zeroZ_wordZ op, rfl⟩

theorem ifZero_wordI (op : Nat) {n : Nat} (hn : n ≤ 16) (v : BitVec n) (f : BitVec n → Instr) :
    ifZero (zeroI (wordI op v.toNat) n) (f (bits (wordI op v.toNat) 0 n)) = .ok (f v) := by
  obtain ⟨hz, himm⟩ := fields_wordI op hn v
  exact ifZero_eq_ok.mpr ⟨hz, congrArg f himm⟩

/-- R97 to R99: the decoder reads an operation back from its word. -/
theorem decode_encode (i : Instr) : decode (encode i) = .ok i := by
  have hop := opcode_encode i
  cases i with
  | nop => exact (decode_nop hop).trans (ifZero_wordZ 0x0 _)
  | swap => exact (decode_swap hop).trans (ifZero_wordZ 0x4 _)
  | tick => exact (decode_tick hop).trans (ifZero_wordZ 0x8 _)
  | step => exact (decode_step hop).trans (ifZero_wordZ 0x9 _)
  | swtmo => exact (decode_swtmo hop).trans (ifZero_wordZ 0xB _)
  | selbuf which => exact (decode_selbuf hop).trans (ifZero_wordI 0x3 (by decide) which .selbuf)
  | setont us => exact (decode_setont hop).trans (ifZero_wordI 0x5 (by decide) us .setont)
  | power on => exact (decode_power hop).trans (ifZero_wordI 0x6 (by decide) on .power)
  | rdreg n => exact (decode_rdreg hop).trans (ifZero_wordI 0x7 (by decide) n .rdreg)
  | setpx x y r g b =>
    obtain ⟨hz, ht, hx, hy, hr, hg, hb⟩ := fields_wordP 0x1 0 x y r g b
    rw [decode_setpx hop]
    exact ifZero_eq_ok.mpr ⟨Bool.and_eq_true_iff.mpr ⟨hz, beq_iff_eq.mpr ht⟩, by congr⟩
  | setpxb x y r g b t =>
    obtain ⟨hz, ht, hx, hy, hr, hg, hb⟩ := fields_wordP 0x2 t x y r g b
    rw [decode_setpxb hop]
    exact ifZero_eq_ok.mpr ⟨hz, by congr⟩
  | scanstep buf plane mux t =>
    obtain ⟨hz, hbuf, hplane, hmux, ht⟩ := fields_wordS 0xA buf plane mux t
    rw [decode_scanstep hop]
    exact ifZero_eq_ok.mpr ⟨hz, by congr⟩

/-- Settles O1: format by format, the zero field of the encoded word is 0 and each field is its operand. -/
theorem decodeOfEncodeIsTheInstruction : Obligations.DecodeOfEncodeIsTheInstruction := decode_encode

end Sys2Proof
end

section
/-! SUPPORT. A legal word is its operation's word (30_encoding.md R97, R108), and the opcode map's masks and patterns say which words are which
operation's (R99). -/

namespace Sys2Proof

/-! The word of a decoded operation -/

/-- The opcodes of R99, and the reserved ones. -/
theorem opcode_cases (op : BitVec 4) : op = 0 ∨ op = 1 ∨ op = 2 ∨ op = 3 ∨ op = 4 ∨ op = 5 ∨ op = 6 ∨ op = 7 ∨ op = 8 ∨ op = 9 ∨
    op = 10 ∨ op = 11 ∨ 12 ≤ op.toNat := by
  revert op
  decide

/-- A word that its opcode decodes to `j` behind a zero field is the word of `j` if that field makes it so. -/
theorem encode_eq_of_ifZero {w : Word} {zero : Bool} {i j : Instr} (hd : decode w = ifZero zero j) (hw : zero = true → encode j = w)
    (h : decode w = .ok i) : encode i = w := by
  obtain ⟨hz, rfl⟩ := ifZero_eq_ok.mp (hd.symm.trans h)
  exact hw hz

/-- A `SETPX` word has bit 58 clear (R99). -/
theorem encode_setpx_of_zeroP {w : Word} (hop : opcode w = 1) (hz : (zeroP w && bits w 58 1 == 0) = true) :
    encode (.setpx (bits w 40 16) (bits w 24 16) (bits w 16 8) (bits w 8 8) (bits w 0 8)) = w := by
  obtain ⟨hz, ht⟩ := Bool.and_eq_true_iff.mp hz
  have hword := wordP_of_zeroP hop hz
  rwa [beq_iff_eq.mp ht] at hword

/-- Settles O2: opcode by opcode, the fields that the decoder reads are all of the word. -/
theorem decodedWordIsItsEncoding : Obligations.DecodedWordIsItsEncoding := by
  unfold Obligations.DecodedWordIsItsEncoding
  intro w i h
  rcases opcode_cases (opcode w) with e | e | e | e | e | e | e | e | e | e | e | e | e
  · exact encode_eq_of_ifZero (decode_nop e) (wordZ_of_zeroZ (op := 0x0) e) h
  · exact encode_eq_of_ifZero (decode_setpx e) (encode_setpx_of_zeroP e) h
  · exact encode_eq_of_ifZero (decode_setpxb e) (wordP_of_zeroP (op := 0x2) e) h
  · exact encode_eq_of_ifZero (decode_selbuf e) (wordI_of_zeroI (op := 0x3) e (by decide)) h
  · exact encode_eq_of_ifZero (decode_swap e) (wordZ_of_zeroZ (op := 0x4) e) h
  · exact encode_eq_of_ifZero (decode_setont e) (wordI_of_zeroI (op := 0x5) e (by decide)) h
  · exact encode_eq_of_ifZero (decode_power e) (wordI_of_zeroI (op := 0x6) e (by decide)) h
  · exact encode_eq_of_ifZero (decode_rdreg e) (wordI_of_zeroI (op := 0x7) e (by decide)) h
  · exact encode_eq_of_ifZero (decode_tick e) (wordZ_of_zeroZ (op := 0x8) e) h
  · exact encode_eq_of_ifZero (decode_step e) (wordZ_of_zeroZ (op := 0x9) e) h
  · exact encode_eq_of_ifZero (decode_scanstep e) (wordS_of_zeroS (op := 0xA) e) h
  · exact encode_eq_of_ifZero (decode_swtmo e) (wordZ_of_zeroZ (op := 0xB) e) h
  · exact absurd ((decode_reserved e).symm.trans h) (by simp)

/-- R96, R99: a decoded word carries its operation's opcode. -/
theorem opcode_of_decode {w : Word} {i : Instr} (h : decode w = .ok i) : opcode w = i.op := by
  rw [← decodedWordIsItsEncoding w i h, opcode_encode]

/-! Masks -/

/-- Two words agree under a mask when they agree on its bits. -/
theorem and_eq_and_iff {w p mask : Word} :
    w &&& mask = p &&& mask ↔ ∀ i, mask.getLsbD i = true → w.getLsbD i = p.getLsbD i := by
  constructor
  · intro h i hi
    simpa [hi] using congrArg (·.getLsbD i) h
  · intro h
    refine BitVec.eq_of_getLsbD_eq fun i _ => ?_
    rw [BitVec.getLsbD_and, BitVec.getLsbD_and]
    cases hi : mask.getLsbD i with
    | true => rw [h i hi]
    | false => rw [Bool.and_false, Bool.and_false]

/-- A word is 0 under two masks together when it is under each. -/
theorem and_or_eq_zero_iff {w m m' : Word} : w &&& (m ||| m') = 0 ↔ w &&& m = 0 ∧ w &&& m' = 0 := by
  rw [BitVec.and_or_distrib_left]
  exact BitVec.or_eq_zero_iff

/-- The bits of a field. -/
def fieldMask (lo len : Nat) : Word := (BitVec.allOnes len).setWidth 64 <<< lo

theorem getLsbD_fieldMask {lo len i : Nat} : (fieldMask lo len).getLsbD i = true ↔ i < 64 ∧ lo ≤ i ∧ i < lo + len := by
  simp only [fieldMask, BitVec.getLsbD_shiftLeft, BitVec.getLsbD_setWidth, BitVec.getLsbD_allOnes, Bool.and_eq_true, Bool.not_eq_true',
    decide_eq_true_eq, decide_eq_false_iff_not]
  omega

/-- Two words agree under the mask of a field when they have the field in common. -/
theorem and_fieldMask_eq_iff {w p : Word} {lo len : Nat} :
    w &&& fieldMask lo len = p &&& fieldMask lo len ↔ bits w lo len = bits p lo len := by
  rw [and_eq_and_iff]
  constructor
  · intro h
    refine BitVec.eq_of_getLsbD_eq fun i hi => ?_
    rw [bits, bits, BitVec.getLsbD_extractLsb', BitVec.getLsbD_extractLsb']
    by_cases h64 : lo + i < 64
    · rw [h _ (getLsbD_fieldMask.mpr ⟨h64, by omega, by omega⟩)]
    · rw [BitVec.getLsbD_of_ge w _ (by omega), BitVec.getLsbD_of_ge p _ (by omega)]
  · intro h i hi
    obtain ⟨-, hlo, hhi⟩ := getLsbD_fieldMask.mp hi
    have hbit := congrArg (·.getLsbD (i - lo)) h
    simpa [bits, show i - lo < len by omega, Nat.add_sub_cancel' hlo] using hbit

/-- A field is 0 when the word is under the field's mask. -/
theorem bits_eq_zero_iff_and {w : Word} {lo len : Nat} : bits w lo len = 0 ↔ w &&& fieldMask lo len = 0 := by
  have h := and_fieldMask_eq_iff (w := w) (p := 0) (lo := lo) (len := len)
  rw [BitVec.ofNat_eq_ofNat, BitVec.zero_and] at h
  rw [BitVec.ofNat_eq_ofNat, BitVec.ofNat_eq_ofNat, h, bits, bits, BitVec.extractLsb'_zero]

/-! The zero fields of the formats, as masks (R97) -/

section
variable {w : Word}

theorem zeroZ_iff_and : zeroZ w = true ↔ w &&& fieldMask 0 60 = 0 := by
  rw [zeroZ, beq_iff_eq, bits_eq_zero_iff_and]

theorem zeroP_iff_and : zeroP w = true ↔ w &&& (fieldMask 59 1 ||| fieldMask 56 2) = 0 := by
  rw [zeroP, Bool.and_eq_true, beq_iff_eq, beq_iff_eq, bits_eq_zero_iff_and, bits_eq_zero_iff_and, and_or_eq_zero_iff]

theorem zeroP_setpx_iff_and :
    (zeroP w && bits w 58 1 == 0) = true ↔ w &&& (fieldMask 59 1 ||| fieldMask 56 2 ||| fieldMask 58 1) = 0 := by
  rw [Bool.and_eq_true, zeroP_iff_and, beq_iff_eq, bits_eq_zero_iff_and, and_or_eq_zero_iff (m' := fieldMask 58 1)]

theorem zeroI_iff_and {n : Nat} : zeroI w n = true ↔ w &&& (fieldMask 16 44 ||| fieldMask n (16 - n)) = 0 := by
  rw [zeroI, Bool.and_eq_true, beq_iff_eq, beq_iff_eq, bits_eq_zero_iff_and, bits_eq_zero_iff_and, and_or_eq_zero_iff]

theorem zeroS_iff_and : zeroS w = true ↔ w &&& fieldMask 25 35 = 0 := by
  rw [zeroS, beq_iff_eq, bits_eq_zero_iff_and]

end

/-! The rows of the opcode map (R99) -/

/-- The bits that the row's format marks 0. -/
def OpRow.zeroMask (r : OpRow) : Word := r.mask &&& ~~~fieldMask 60 4

/-- A row's mask has the opcode and the zero field, and its pattern the opcode alone. -/
theorem OpRow.fields : ∀ r ∈ opcodeMap,
    r.mask = fieldMask 60 4 ||| r.zeroMask ∧ r.mask &&& fieldMask 60 4 = fieldMask 60 4 ∧ r.mask &&& r.zeroMask = r.zeroMask ∧
    r.pattern &&& fieldMask 60 4 = r.pattern ∧ r.pattern &&& r.zeroMask = 0 := by decide

/-- No two rows have one mnemonic. -/
theorem OpRow.eq_of_mnemonic : ∀ r ∈ opcodeMap, ∀ r' ∈ opcodeMap, r.mnemonic = r'.mnemonic → r = r' := by decide

/-- Every operation has its row, with its opcode. -/
theorem Instr.exists_row (i : Instr) : ∃ r ∈ opcodeMap, i.mnemonic = r.mnemonic ∧ i.op = opcode r.pattern := by
  cases i <;> simp only [Instr.mnemonic, Instr.op] <;> decide

section
variable {r : OpRow} (hr : r ∈ opcodeMap)
include hr

/-- An operation with the row's mnemonic has the row's opcode. -/
theorem Instr.op_of_mnemonic {i : Instr} (h : i.mnemonic = r.mnemonic) : i.op = opcode r.pattern := by
  obtain ⟨r', hr', hname, hop⟩ := i.exists_row
  rwa [OpRow.eq_of_mnemonic r hr r' hr' (h.symm.trans hname)]

/-- A word of a row has the row's opcode and is 0 in the zero field. -/
theorem OpRow.covers_iff {w : Word} : r.covers w = true ↔ opcode w = opcode r.pattern ∧ w &&& r.zeroMask = 0 := by
  obtain ⟨hmask, hop, hzero, hpattern, hpatternZero⟩ := OpRow.fields r hr
  rw [OpRow.covers, beq_iff_eq, opcode, opcode, ← and_fieldMask_eq_iff]
  constructor
  · intro h
    rw [← h, BitVec.and_assoc, hop, ← hpatternZero, ← h, BitVec.and_assoc, hzero]
    exact ⟨rfl, rfl⟩
  · rintro ⟨hw, hwzero⟩
    rw [hmask, BitVec.and_or_distrib_left, hw, hwzero, hpattern, BitVec.ofNat_eq_ofNat, BitVec.or_zero]

/-- A row whose zero field is the decoder's for its opcode covers the words of its operation. -/
theorem OpRow.covers_iff_decode {w mask : Word} {op : BitVec 4} {zero : Bool} {j : Instr} (hop : opcode r.pattern = op)
    (hmask : r.zeroMask = mask) (hzero : zero = true ↔ w &&& mask = 0) (hd : opcode w = op → decode w = ifZero zero j)
    (hname : j.mnemonic = r.mnemonic) : r.covers w = true ↔ ∃ i, decode w = .ok i ∧ i.mnemonic = r.mnemonic := by
  rw [OpRow.covers_iff hr, hmask, ← hzero, hop]
  constructor
  · rintro ⟨hw, hz⟩
    exact ⟨j, (hd hw).trans (ifZero_eq_ok.mpr ⟨hz, rfl⟩), hname⟩
  · rintro ⟨i, hi, hiname⟩
    have hw : opcode w = op := by rw [opcode_of_decode hi, Instr.op_of_mnemonic hr hiname, hop]
    exact ⟨hw, (ifZero_eq_ok.mp ((hd hw).symm.trans hi)).1⟩

end

/-- Settles O3, row by row: the mask beside the opcode is the decoder's zero field. -/
theorem wordsOfARowAreItsOperation : Obligations.WordsOfARowAreItsOperation := by
  unfold Obligations.WordsOfARowAreItsOperation
  intro r hr w
  have hrow := hr
  simp only [opcodeMap, List.mem_cons, List.not_mem_nil, or_false] at hrow
  obtain rfl | rfl | rfl | rfl | rfl | rfl | rfl | rfl | rfl | rfl | rfl | rfl := hrow
  · exact OpRow.covers_iff_decode hr (by decide) (by decide) zeroZ_iff_and decode_nop rfl
  · exact OpRow.covers_iff_decode hr (by decide) (by decide) zeroP_setpx_iff_and decode_setpx rfl
  · exact OpRow.covers_iff_decode hr (by decide) (by decide) zeroP_iff_and decode_setpxb rfl
  · exact OpRow.covers_iff_decode hr (by decide) (by decide) zeroI_iff_and decode_selbuf rfl
  · exact OpRow.covers_iff_decode hr (by decide) (by decide) zeroZ_iff_and decode_swap rfl
  · exact OpRow.covers_iff_decode hr (by decide) (by decide) zeroI_iff_and decode_setont rfl
  · exact OpRow.covers_iff_decode hr (by decide) (by decide) zeroI_iff_and decode_power rfl
  · exact OpRow.covers_iff_decode hr (by decide) (by decide) zeroI_iff_and decode_rdreg rfl
  · exact OpRow.covers_iff_decode hr (by decide) (by decide) zeroZ_iff_and decode_tick rfl
  · exact OpRow.covers_iff_decode hr (by decide) (by decide) zeroZ_iff_and decode_step rfl
  · exact OpRow.covers_iff_decode hr (by decide) (by decide) zeroS_iff_and decode_scanstep rfl
  · exact OpRow.covers_iff_decode hr (by decide) (by decide) zeroZ_iff_and decode_swtmo rfl

/-- R108: a word is illegal when no row of the opcode map covers it. -/
theorem decode_error_iff (w : Word) : (∃ e, decode w = .error e) ↔ ∀ r, r ∈ opcodeMap → r.covers w = false := by
  constructor
  · rintro ⟨e, he⟩ r hr
    refine Bool.eq_false_iff.mpr fun hc => ?_
    obtain ⟨i, hi, -⟩ := (wordsOfARowAreItsOperation r hr w).mp hc
    cases he.symm.trans hi
  · intro h
    cases hd : decode w with
    | error e => exact ⟨e, rfl⟩
    | ok i =>
      obtain ⟨r, hr, hname, -⟩ := i.exists_row
      have hc := (wordsOfARowAreItsOperation r hr w).mpr ⟨i, hd, hname⟩
      exact absurd ((h r hr).symm.trans hc) Bool.false_ne_true

/-- Settles O4, word by word. -/
theorem wordsOfTheVectorsDecode : Obligations.WordsOfTheVectorsDecode := by
  unfold Obligations.WordsOfTheVectorsDecode
  decide

end Sys2Proof
end

section
/-! SUPPORT. A word at the port, by its issuer (30_encoding.md R96, R109). -/

namespace Sys2Proof.Machine

/-- An illegal word, or the word of an operation of the writer (log 7). -/
theorem wordIssuer_writer {w : Word} (h : ∀ i, decode w = .ok i → i.issuer = .writer) : wordIssuer w = .writer := by
  unfold wordIssuer
  split
  · rename_i i hi
    exact h i hi
  · rfl

theorem wordIssuer_of_decode {w : Word} {i : Instr} (h : decode w = .ok i) : wordIssuer w = i.issuer := by
  rw [wordIssuer, h]

section
variable {w : Word} {s : State}

theorem portAnswer_timer (hw : wordIssuer w = .timer) : portAnswer w s = .accept := by
  rw [portAnswer, hw]

theorem portAnswer_writer (hw : wordIssuer w = .writer) :
    portAnswer w s = if s.swappend then .closed else if s.writerBusy then .finishWriter else .accept := by
  rw [portAnswer, hw]

/-- The port accepts a word of the timer, and of the writer where no `SWAP` pends and the writer is not busy. -/
theorem portAnswer_accept (h : wordIssuer w = .timer ∨ (s.swappend = false ∧ s.writerBusy = false)) : portAnswer w s = .accept := by
  cases hw : wordIssuer w with
  | timer => exact portAnswer_timer hw
  | writer =>
    obtain ⟨hp, hb⟩ := h.resolve_left (by simp [hw])
    rw [portAnswer_writer hw, hp, hb]
    rfl

variable {hold : Bool} {rest : List Input} (hc : configLegal s.cfg = true) (hi : s.inputs = .word w hold :: rest)
include hc hi

/-- A step at a word does what the port says. -/
theorem step_of_word : step s = stepWord w hold s := by
  rw [step, if_pos hc, hi]

/-- A word that decodes and that the port accepts is consumed and runs. -/
theorem step_of_ok {i : Instr} (h : portAnswer w s = .accept) (hd : decode w = .ok i) :
    step s = exec i { s with inputs := rest, hold := hold } := by
  rw [step_of_word hc hi, stepWord, h, hd, State.accept, hi]
  rfl

/-- An illegal word that the port accepts is consumed. -/
theorem step_of_error {e : Illegal} (h : portAnswer w s = .accept) (hd : decode w = .error e) :
    step s = illegalWord { s with inputs := rest, hold := hold } := by
  rw [step_of_word hc hi, stepWord, h, hd, State.accept, hi]
  rfl

end

/-- Settles O5: the opcode map by its rows, the reserved opcodes by the decoder, the step by the port. -/
theorem illegalWordsOnlySetCommandError : Obligations.IllegalWordsOnlySetCommandError := by
  unfold Obligations.IllegalWordsOnlySetCommandError
  refine ⟨decode_error_iff, fun w h => decode_reserved h, fun s w hold rest e hc hi hd hp hb => ?_⟩
  exact step_of_error hc hi (portAnswer_accept (.inr ⟨hp, hb⟩)) hd

/-- Settles O6: the port accepts the word, and the step is `exec` of what it decodes to. -/
theorem stepRunsTheDecodedInstruction : Obligations.StepRunsTheDecodedInstruction := by
  unfold Obligations.StepRunsTheDecodedInstruction
  intro s w hold rest i hc hi hd h
  rw [← wordIssuer_of_decode hd] at h
  exact step_of_ok hc hi (portAnswer_accept h) hd

/-- Settles O7: the port is closed to the writer. -/
theorem writerWordIsRefusedWhileASwapPends : Obligations.WriterWordIsRefusedWhileASwapPends := by
  unfold Obligations.WriterWordIsRefusedWhileASwapPends
  intro s w hold rest hc hi hp hw
  rw [step_of_word hc hi, stepWord, portAnswer_writer (wordIssuer_writer hw), hp]
  rfl

/-- Settles O8: the port lets the owed writes finish first. -/
theorem writerWordWaitsForThePixelInProgress : Obligations.WriterWordWaitsForThePixelInProgress := by
  unfold Obligations.WriterWordWaitsForThePixelInProgress
  intro s w hold rest hc hi hp hw hq hoff
  have hempty : s.wq.isEmpty = false := List.isEmpty_eq_false_iff.mpr hq
  have hbusy : s.writerBusy = true := by rw [State.writerBusy, hempty, Bool.not_false, Bool.true_or]
  have hport : portAnswer w s = .finishWriter := by
    rw [portAnswer_writer (wordIssuer_writer hw), hp, hbusy]
    rfl
  have hrun : runWriter s.wq.length s = .next (s.writes s.wq.length) :=
    runWriter_of_exist fun x hx => hoff x (List.mem_of_mem_take hx)
  rw [step_of_word hc hi, stepWord, hport]
  show finishWriter s = _
  rw [finishWriter, hempty, if_neg Bool.false_ne_true, hrun, State.writes, List.take_length, List.drop_length]

end Sys2Proof.Machine
end

section
/-! SUPPORT. The scan steps of `PLANEPASS` one after another (30_encoding.md R111, 42_scan.md R181). -/

namespace Sys2Proof.Machine

/-- A `SCANSTEP` that is not rejected and that the transport does not let down (R181, R170). -/
theorem execScanstep_done {buf : BufNo} {q : BitVec 3} {mux : BitVec 5} {t : BitVec 16} {s : State} (hr : s.run = false)
    (hf : s.fault = false) (hi : s.ScannerIdle) (hm : mux.toNat < s.cfg.rp) (ho : failing s.cfg s.nextOutcome = false) :
    execScanstep buf q mux t s = .next (s.drawn.emitAll (stepEvents s.cfg s.mem buf q mux t)) := by
  let j := directJob buf q mux t
  have hdone : scanActions (stepActions s.cfg) (s.setScan (some j)) =
      ((s.setScan (some j)).drawn.emitAll (stepEvents s.cfg s.mem buf q mux t)).setScan none :=
    scanActions_direct_done (j := j) (s := s.setScan (some j)) rfl rfl rfl rfl ho
  rw [execScanstep_running hr hf hi hm, hdone, State.setScan_drawn, State.emitAll_setScan, State.setScan_setScan, State.setScan_none]
  rw [State.emitAll_eq]
  exact hi.1

/-- A sequence of operations in two parts. -/
theorem execAll_append {l l' : List Instr} {s t : State} (h : execAll l s = .next t) : execAll (l ++ l') s = execAll l' t := by
  induction l generalizing s with
  | nil => cases h; rfl
  | cons i l ih =>
    rw [execAll] at h
    rw [List.cons_append, execAll]
    cases hi : exec i s with
    | next s' =>
      rw [hi] at h
      exact ih h
    | fault r => rw [hi] at h; cases h
    | refused r => rw [hi] at h; cases h

theorem execAll_singleton (i : Instr) (s : State) : execAll [i] s = exec i s := by
  rw [execAll]
  cases exec i s <;> rfl

/-- The operations of the first `n` addresses of a plane pass (R111). -/
def passOps (buf : BufNo) (q : BitVec 3) (t : BitVec 16) (n : Nat) : List Instr :=
  (List.range n).map fun m => .scanstep buf q (BitVec.ofNat 5 m) t

/-- The events of the first `n` addresses of a plane pass (R19). -/
def passOpsEvents (c : Config) (m : Memory) (buf : BufNo) (q : BitVec 3) (t : BitVec 16) (n : Nat) : List Event :=
  (List.range n).flatMap fun mux => stepEvents c m buf q (BitVec.ofNat 5 mux) t

theorem planePass_eq_passOps (c : Config) (buf : BufNo) (q : BitVec 3) (t : BitVec 16) : planePass c buf q t = passOps buf q t c.rp := rfl

theorem passEvents_eq_passOpsEvents (c : Config) (m : Memory) (buf : BufNo) (q : BitVec 3) (t : BitVec 16) :
    passEvents c m buf q.toNat t = passOpsEvents c m buf q t c.rp := by
  rw [passEvents, BitVec.ofNat_toNat, BitVec.setWidth_eq, passOpsEvents]

theorem passOps_succ (buf : BufNo) (q : BitVec 3) (t : BitVec 16) (n : Nat) :
    passOps buf q t (n + 1) = passOps buf q t n ++ [.scanstep buf q (BitVec.ofNat 5 n) t] := by
  simp [passOps, List.range_succ]

theorem passOpsEvents_succ (c : Config) (m : Memory) (buf : BufNo) (q : BitVec 3) (t : BitVec 16) (n : Nat) :
    passOpsEvents c m buf q t (n + 1) = passOpsEvents c m buf q t n ++ stepEvents c m buf q (BitVec.ofNat 5 n) t := by
  simp [passOpsEvents, List.range_succ]

/-- The state after `n` `SCANSTEP`s with these events: but for the trace, the pins and the transport's answers it is as before. -/
def State.afterPass (s : State) (es : List Event) (n : Nat) : State :=
  { s with trace := s.trace ++ es, pins := es.foldl Pins.after s.pins, oracle := s.oracle.drop n, draws := s.draws + n }

/-- One more scan step. -/
theorem State.afterPass_drawn_emitAll (s : State) (es es' : List Event) (n : Nat) :
    (s.afterPass es n).drawn.emitAll es' = s.afterPass (es ++ es') (n + 1) := by
  simp [State.emitAll_eq, State.afterPass, State.drawn, List.tail_drop, Nat.add_assoc]

theorem State.answer_afterPass (s : State) (es : List Event) (n : Nat) : (s.afterPass es n).nextOutcome = s.answer n := rfl

/-- R111, R181: the first `n` scan steps of a plane pass, none of which the transport lets down. -/
theorem execAll_passOps {buf : BufNo} {q : BitVec 3} {t : BitVec 16} {s : State} (hc : configLegal s.cfg = true) (hi : s.ScannerIdle)
    (hr : s.run = false) (hf : s.fault = false) {n : Nat} (hn : n ≤ s.cfg.rp) (ho : s.AnswersOk n) :
    execAll (passOps buf q t n) s = .next (s.afterPass (passOpsEvents s.cfg s.mem buf q t n) n) := by
  induction n with
  | zero =>
    rw [show s.afterPass _ 0 = s by simp [State.afterPass, passOpsEvents]]
    rfl
  | succ n ih =>
    let u := s.afterPass (passOpsEvents s.cfg s.mem buf q t n) n
    have hfirst : execAll (passOps buf q t n) s = .next u := ih (by omega) fun k hk => ho k (by omega)
    have hmux : (BitVec.ofNat 5 n).toNat < s.cfg.rp := by
      have hrp := (legal_rp_bounds hc).2
      rw [BitVec.toNat_ofNat]
      omega
    have hok : failing s.cfg u.nextOutcome = false := by
      rw [State.answer_afterPass, ho n (by omega)]
      rfl
    have hlast : execScanstep buf q (BitVec.ofNat 5 n) t u = .next (u.drawn.emitAll (stepEvents s.cfg s.mem buf q (BitVec.ofNat 5 n) t)) :=
      execScanstep_done (s := u) hr hf hi hmux hok
    rw [passOps_succ, execAll_append hfirst, execAll_singleton, passOpsEvents_succ, ← State.afterPass_drawn_emitAll]
    exact hlast

/-- No scan step drives `PWR_EN`. -/
theorem pins_after_passOps_pwrEn (p : Pins) (c : Config) (m : Memory) (buf : BufNo) (q : BitVec 3) (t : BitVec 16) (n : Nat) :
    ((passOpsEvents c m buf q t n).foldl Pins.after p).pwrEn = p.pwrEn := by
  induction n with
  | zero => rfl
  | succ n ih =>
    obtain ⟨-, -, -, hpwr⟩ := pins_after_step ((passOpsEvents c m buf q t n).foldl Pins.after p) c m buf q (BitVec.ofNat 5 n) t
    rw [passOpsEvents_succ, List.foldl_append, hpwr, ih]

/-- Settles O34: the pass up to each address, and the pins of its last step. -/
theorem planePassScansEveryAddress : Obligations.PlanePassScansEveryAddress := by
  unfold Obligations.PlanePassScansEveryAddress
  intro buf q t s hc hi hr hf ho
  obtain ⟨n, hn⟩ : ∃ n, s.cfg.rp = n + 1 := Nat.exists_eq_succ_of_ne_zero (by have := legal_rp_bounds hc; omega)
  have hpass := execAll_passOps (buf := buf) (q := q) (t := t) hc hi hr hf (Nat.le_refl _) ho
  refine ⟨(passEvents s.cfg s.mem buf q.toNat t).foldl Pins.after s.pins, ?_, ?_⟩
  · rw [planePass_eq_passOps, hpass, passEvents_eq_passOpsEvents]
    rfl
  · rw [passEvents_eq_passOpsEvents]
    have hpwr := pins_after_passOps_pwrEn s.pins s.cfg s.mem buf q t s.cfg.rp
    rw [hn, passOpsEvents_succ, List.foldl_append] at hpwr ⊢
    obtain ⟨ha, hlat, hoe, -⟩ :=
      pins_after_step ((passOpsEvents s.cfg s.mem buf q t n).foldl Pins.after s.pins) s.cfg s.mem buf q (BitVec.ofNat 5 n) t
    exact ⟨ha, hlat, hoe, hpwr⟩

end Sys2Proof.Machine
end

section
/-! SUPPORT. The pixel operations on an idle block (40_pixel_encode.md R120 to R122, R130, R131): a pixel in range is its 24 writes, one out of
range is nothing. -/

namespace Sys2Proof.Machine

theorem exec_setpx (x y : BitVec 16) (r g b : BitVec 8) (s : State) : exec (.setpx x y r g b) s = writePixel s.wrbuf x y r g b s := rfl

theorem exec_setpxb (x y : BitVec 16) (r g b : BitVec 8) (tb : BufNo) (s : State) :
    exec (.setpxb x y r g b tb) s = writePixel tb x y r g b s := rfl

/-- R122: the bounds check in logical coordinates. -/
theorem inPanel_transform_iff {c : Config} {x y : Int} : inPanel c (transform c x y) = true ↔
    0 ≤ x ∧ x < (if c.rotate then (c.h : Int) else c.w) ∧ 0 ≤ y ∧ y < (if c.rotate then (c.w : Int) else c.h) := by
  unfold transform
  split <;> simp only [inPanel, Bool.and_eq_true, decide_eq_true_eq] <;> omega

/-- R122: a pixel out of range is dropped, in every state. -/
theorem writePixel_of_not_inPanel {tb : BufNo} {x y : BitVec 16} {r g b : BitVec 8} {s : State}
    (hp : ¬ inPanel s.cfg (transform s.cfg x.toInt y.toInt) = true) : writePixel tb x y r g b s = .next s := if_neg hp

/-- R120, R126: a pixel in range on a block that owes no writes is its 24 writes. -/
theorem writePixel_of_inPanel {tb : BufNo} {x y : BitVec 16} {r g b : BitVec 8} {s : State} (h : configLegal s.cfg = true)
    (hi : s.WriterIdle) (hp : inPanel s.cfg (transform s.cfg x.toInt y.toInt) = true) :
    writePixel tb x y r g b s = .next { s with
      mem := s.mem.setBits (pixelWrites s.cfg tb (transform s.cfg x.toInt y.toInt).1.toNat (transform s.cfg x.toInt y.toInt).2.toNat
        r.toNat g.toNat b.toNat) } := by
  obtain ⟨⟨-, hx⟩, -, hy⟩ := inPanel_iff.mp hp
  obtain ⟨hq, hh⟩ := hi
  exact (if_pos hp).trans (startWriter_whole hq hh (pixelWrites_off_lt h hx hy))

/-- Settles O36: the logical bounds are the panel's, and what they exclude is dropped. -/
theorem outOfRangePixelIsDropped : Obligations.OutOfRangePixelIsDropped := by
  unfold Obligations.OutOfRangePixelIsDropped
  intro x y r g b tb s hout
  have hp := mt inPanel_transform_iff.mp hout
  exact ⟨(exec_setpx ..).trans (writePixel_of_not_inPanel hp), (exec_setpxb ..).trans (writePixel_of_not_inPanel hp)⟩

/-- Settles O37: both operations are the same pixel write, each on its buffer. -/
theorem inRangePixelIsWritten : Obligations.InRangePixelIsWritten := by
  unfold Obligations.InRangePixelIsWritten
  intro x y r g b tb s h hi hp
  exact ⟨(exec_setpxb ..).trans (writePixel_of_inPanel h hi hp), (exec_setpx ..).trans (writePixel_of_inPanel h hi hp)⟩

end Sys2Proof.Machine
end

section
/-! SUPPORT. The 24 bits of a pixel (40_pixel_encode.md R124 to R127): pixel, channel and threshold index can be read off a bit's place, so the
writes of a pixel hit pairwise different bits and no other pixel's. -/

namespace Sys2Proof.Machine

/-! The planes -/

theorem planeOf_lt (c : Config) {p : Nat} (hp : p < 8) (ch : Channel) : planeOf c p ch < 8 := by
  cases ch <;> simp only [planeOf] <;> omega

/-- R70: the stagger put on and taken off again. -/
theorem thresholdOf_planeOf {c : Config} (h : configLegal c = true) {p : Nat} (hp : p < 8) (ch : Channel) :
    thresholdOf c (planeOf c p ch) ch = p := by
  obtain ⟨hg, hb⟩ := legal_staggers h
  cases ch <;> simp only [planeOf, thresholdOf] <;> omega

/-- R127: a channel's eight threshold indices visit each plane exactly once. -/
theorem exists_planeOf_eq {c : Config} (h : configLegal c = true) (ch : Channel) {q : Nat} (hq : q < 8) :
    ∃ p, p < 8 ∧ planeOf c p ch = q ∧ ∀ p', p' < 8 → planeOf c p' ch = q → p' = p := by
  refine ⟨thresholdOf c q ch, thresholdOf_lt c hq ch, planeOf_thresholdOf h hq ch, ?_⟩
  rintro p' hp' rfl
  exact (thresholdOf_planeOf h hp' ch).symm

/-! The place of a bit -/

/-- R127: the place of a bit names its pixel, its channel and its threshold index. -/
theorem pixelOffset_bitIndex_injective {c : Config} (h : configLegal c = true) {x2 y2 x2' y2' p p' : Nat} {ch ch' : Channel}
    (hx : x2 < c.w) (hy : y2 < c.h) (hx' : x2' < c.w) (hy' : y2' < c.h) (hp : p < 8) (hp' : p' < 8)
    (hoff : pixelOffset c x2 y2 p ch = pixelOffset c x2' y2' p' ch') (hbit : bitIndex c x2 y2 = bitIndex c x2' y2') :
    (x2 = x2' ∧ y2 = y2') ∧ p = p' ∧ ch = ch' := by
  obtain ⟨hdiv, hmod⟩ := div_mod_of_digits (q := planeOf c p ch) (baseOffset_lt h hx hy ch)
  obtain ⟨hdiv', hmod'⟩ := div_mod_of_digits (q := planeOf c p' ch') (baseOffset_lt h hx' hy' ch')
  have hplane : planeOf c p ch = planeOf c p' ch' := by rw [← hdiv, ← hdiv']; exact congrArg (· / planeBytes c) hoff
  have hbase : baseOffset c x2 y2 ch = baseOffset c x2' y2' ch' := by rw [← hmod, ← hmod']; exact congrArg (· % planeBytes c) hoff
  have hpixel : (x2, y2, ch) = (x2', y2', ch') := by
    rw [← pixelAt_baseOffset h hx hy ch, ← pixelAt_baseOffset h hx' hy' ch', hbase, hbit]
  cases hpixel
  exact ⟨⟨rfl, rfl⟩, by rw [← thresholdOf_planeOf h hp ch, hplane, thresholdOf_planeOf h hp' ch], rfl⟩

/-- The 24 writes, one per pair of a threshold index and a channel (R126). -/
theorem pixelWrites_eq_map (c : Config) (tb : BufNo) (x2 y2 r g b : Nat) : pixelWrites c tb x2 y2 r g b =
    (List.range 8 ×ˢ [Channel.red, .green, .blue]).map fun k => pixelWrite c tb x2 y2 k.1 k.2 (k.2.of r g b) := rfl

/-- R127: the 24 writes of a pixel are to pairwise different bits. -/
theorem pixelWrites_nodup {c : Config} (h : configLegal c = true) {x2 y2 : Nat} (hx : x2 < c.w) (hy : y2 < c.h) (tb : BufNo) (r g b : Nat) :
    ((pixelWrites c tb x2 y2 r g b).map fun w => (w.off, w.bit)).Nodup := by
  rw [pixelWrites_eq_map, List.map_map]
  refine List.Nodup.map_on ?_ (List.nodup_range.product (by decide))
  rintro ⟨p, ch⟩ hk ⟨p', ch'⟩ hk' heq
  have hp := List.mem_range.mp (List.mem_product.mp hk).1
  have hp' := List.mem_range.mp (List.mem_product.mp hk').1
  obtain ⟨hoff, hbit⟩ := Prod.mk.inj heq
  obtain ⟨-, rfl, rfl⟩ := pixelOffset_bitIndex_injective h hx hy hx hy hp hp' hoff hbit
  rfl

/-- R127, R68: a channel's byte lies in the channel's sub-block of the slice; red's is the topmost. -/
theorem baseOffset_subBlock {c : Config} (h : configLegal c = true) {x2 y2 : Nat} (hx : x2 < c.w) (hy : y2 < c.h) (ch : Channel) :
    y2 % c.rp * sliceBytes c + (2 - ch.index) * channelBytes c ≤ baseOffset c x2 y2 ch ∧
    baseOffset c x2 y2 ch ≤ y2 % c.rp * sliceBytes c + (3 - ch.index) * channelBytes c - 1 := by
  have hcell := legal_cell h hx hy
  have hslice : sliceBytes c = 3 * channelBytes c := rfl
  rw [(baseOffset_eq h hx hy ch).2]
  cases ch <;> simp only [Channel.index] <;> omega

/-- Settles O38: the sub-blocks channel by channel, and the places of the 24 bits. -/
theorem pixelOffsetsAreInRangeAndDistinct : Obligations.PixelOffsetsAreInRangeAndDistinct := by
  unfold Obligations.PixelOffsetsAreInRangeAndDistinct
  intro c tb x2 y2 r g b h hx hy
  have hcell := legal_cell h hx hy
  have hblock := baseOffset_subBlock h hx hy
  refine ⟨by omega, hblock .red, ?_, ?_, baseOffset_lt h hx hy, pixelWrites_off_lt h hx hy, fun ch q => exists_planeOf_eq h ch,
    pixelWrites_nodup h hx hy tb r g b⟩
  · simpa [Channel.index] using hblock .green
  · simpa [Channel.index] using hblock .blue

/-! The bits after the writes -/

/-- A bit that a run of writes names has the value they agree on for it. -/
theorem Memory.getLsbD_read_setBits_of_mem {m : Memory} (h : m.wf = true) {ws : List BitWrite} (hw : ∀ w ∈ ws, w.bit < 8)
    {b : BufNo} {a i : Nat} {v : Bool} (hv : ∀ w ∈ ws, b = w.buf ∧ a = w.off ∧ i = w.bit → w.val = v)
    (hn : ∃ w ∈ ws, b = w.buf ∧ a = w.off ∧ i = w.bit) : ((m.setBits ws).read b a).getLsbD i = v := by
  induction ws generalizing m with
  | nil => simp at hn
  | cons w ws ih =>
    obtain ⟨hbit, hbits⟩ := List.forall_mem_cons.mp hw
    obtain ⟨hval, hvals⟩ := List.forall_mem_cons.mp hv
    by_cases hlater : ∃ w' ∈ ws, b = w'.buf ∧ a = w'.off ∧ i = w'.bit
    · exact ih (Memory.wf_setBit h w) hbits hvals hlater
    · have hname : b = w.buf ∧ a = w.off ∧ i = w.bit := by
        obtain ⟨w', hw', hn'⟩ := hn
        rcases List.mem_cons.mp hw' with rfl | hw'
        · exact hn'
        · exact absurd ⟨w', hw', hn'⟩ hlater
      calc ((m.setBits (w :: ws)).read b a).getLsbD i
        _ = ((m.setBit w).read b a).getLsbD i :=
            Memory.getLsbD_read_setBits_of_not_mem (Memory.wf_setBit h w) hbits fun w' hw' hn' => hlater ⟨w', hw', hn'⟩
        _ = v := by rw [Memory.getLsbD_read_setBit h w hbit, if_pos hname, hval hname]

/-- R124: the comparison with the threshold written out. -/
theorem planeBit_eq_decide (c : Config) (ch : Channel) (p v : Nat) :
    planeBit c ch p v = decide ((v : Int) > p * 32 + 16 + channelOffset c ch) := by
  simp [planeBit, threshold]

/-- R124, R126: after a pixel is written, each of its bits is its comparison. -/
theorem pixelBit_pixelWrites {c : Config} (h : configLegal c = true) {m : Memory} (hm : m.wf = true) {x2 y2 : Nat} (hx : x2 < c.w)
    (hy : y2 < c.h) (tb : BufNo) (r g b : Nat) {p : Nat} (hp : p < 8) (ch : Channel) :
    pixelBit c (m.setBits (pixelWrites c tb x2 y2 r g b)) tb x2 y2 (planeOf c p ch) ch = planeBit c ch p (ch.of r g b) := by
  refine Memory.getLsbD_read_setBits_of_mem hm pixelWrites_bit_lt ?_ ⟨_, mem_pixelWrites.mpr ⟨p, ch, hp, rfl⟩, rfl, rfl, rfl⟩
  intro w hw hname
  obtain ⟨p', ch', hp', rfl⟩ := mem_pixelWrites.mp hw
  obtain ⟨-, hoff, hbit⟩ := hname
  obtain ⟨-, rfl, rfl⟩ := pixelOffset_bitIndex_injective h hx hy hx hy hp hp' hoff hbit
  rfl

/-- R126: a bit that is none of a pixel's is left as it was. -/
theorem getLsbD_read_pixelWrites_of_ne {c : Config} {m : Memory} (hm : m.wf = true) {x2 y2 r g b : Nat} {tb b' : BufNo} {a i : Nat}
    (hn : b' ≠ tb ∨ ∀ p ch, p < 8 → ¬ (a = pixelOffset c x2 y2 p ch ∧ i = bitIndex c x2 y2)) :
    ((m.setBits (pixelWrites c tb x2 y2 r g b)).read b' a).getLsbD i = (m.read b' a).getLsbD i := by
  refine Memory.getLsbD_read_setBits_of_not_mem hm pixelWrites_bit_lt ?_
  rintro w hw ⟨hbuf, hoff, hbit⟩
  obtain ⟨p, ch, hp, rfl⟩ := mem_pixelWrites.mp hw
  exact hn.elim (· hbuf) fun hn => hn p ch hp ⟨hoff, hbit⟩

/-- R127: the bits of another pixel, and of the other buffer, are left as they were. -/
theorem pixelBit_pixelWrites_of_ne {c : Config} (h : configLegal c = true) {m : Memory} (hm : m.wf = true) {x2 y2 x2' y2' : Nat}
    (hx : x2 < c.w) (hy : y2 < c.h) (hx' : x2' < c.w) (hy' : y2' < c.h) {tb tb' : BufNo} (hne : tb' ≠ tb ∨ ¬ (x2 = x2' ∧ y2 = y2'))
    (r g b : Nat) {p : Nat} (hp : p < 8) (ch : Channel) :
    pixelBit c (m.setBits (pixelWrites c tb x2 y2 r g b)) tb' x2' y2' (planeOf c p ch) ch =
      pixelBit c m tb' x2' y2' (planeOf c p ch) ch := by
  refine getLsbD_read_pixelWrites_of_ne hm (hne.imp_right fun hpixel p' ch' hp' ⟨hoff, hbit⟩ => hpixel ?_)
  exact (pixelOffset_bitIndex_injective h hx hy hx' hy' hp' hp hoff.symm hbit.symm).1

/-- Settles O39: the pixel's own bits channel by channel, and all others. -/
theorem writtenBitsAreTheComparisons : Obligations.WrittenBitsAreTheComparisons := by
  unfold Obligations.WrittenBitsAreTheComparisons
  intro c m tb x2 y2 r g b h hm hx hy
  refine ⟨fun p hp => ?_, fun b' a i hn => getLsbD_read_pixelWrites_of_ne hm hn⟩
  have hbit (ch : Channel) := (pixelBit_pixelWrites h hm hx hy tb r g b hp ch).trans (planeBit_eq_decide ..)
  exact ⟨hbit .red, hbit .green, hbit .blue⟩

end Sys2Proof.Machine
end

section
/-! SUPPORT. Levels and `Decode` (40_pixel_encode.md R128, R132). -/

namespace Sys2Proof.Machine

/-! Levels -/

/-- The thresholds below a value are the indices below one number. -/
theorem threshold_lt_iff {p v : Nat} : v > threshold p ↔ p < (v + 15) / 32 := by
  unfold threshold
  omega

theorem count_lt_eq_min (n k : Nat) : Nat.count (· < k) n = min n k := by
  induction n with
  | zero => simp
  | succ n ih =>
    rw [Nat.count_succ, ih]
    split <;> omega

/-- R128: the level in closed form. -/
theorem level_eq {v : Nat} (hv : v ≤ 255) : level v = (v + 15) / 32 := by
  calc level v = Nat.count (· < (v + 15) / 32) 8 := by simp only [level, Nat.count, threshold_lt_iff, colorDepth]
    _ = (v + 15) / 32 := by rw [count_lt_eq_min]; omega

/-- Settles O43: by the closed form of the level. -/
theorem levelsAreAThermometerCode : Obligations.LevelsAreAThermometerCode := by
  unfold Obligations.LevelsAreAThermometerCode
  intro v hv
  rw [level_eq hv]
  refine ⟨by omega, by omega, by omega, fun p _ => ?_, by omega, by omega⟩
  simp only [threshold_lt_iff]

/-! `Decode` -/

/-- R128: with the channel's offset 0 the count of the channel's bits after the write is the level of its value. -/
theorem channelCount_pixelWrites {c : Config} (h : configLegal c = true) {m : Memory} (hm : m.wf = true) {x2 y2 : Nat} (hx : x2 < c.w)
    (hy : y2 < c.h) (tb : BufNo) (r g b : Nat) {ch : Channel} (h0 : channelOffset c ch = 0) :
    channelCount c (m.setBits (pixelWrites c tb x2 y2 r g b)) tb x2 y2 ch = level (ch.of r g b) := by
  refine List.countP_congr fun p hp => ?_
  rw [pixelBit_pixelWrites h hm hx hy tb r g b (List.mem_range.mp hp) ch, planeBit, h0]
  simp

/-- `Decode` of a pixel in range (R132). -/
theorem decodePixel_of_inPanel {c : Config} {x y : Int} (hp : inPanel c (transform c x y) = true) (m : Memory) (b : BufNo) :
    decodePixel c m b x y =
      some (channelCount c m b (transform c x y).1.toNat (transform c x y).2.toNat .red,
        channelCount c m b (transform c x y).1.toNat (transform c x y).2.toNat .green,
        channelCount c m b (transform c x y).1.toNat (transform c x y).2.toNat .blue) := if_pos hp

/-- `Decode` out of range has no value (R132). -/
theorem decodePixel_of_not_inPanel {c : Config} {x y : Int} (hp : ¬ inPanel c (transform c x y) = true) (m : Memory) (b : BufNo) :
    decodePixel c m b x y = none := if_neg hp

/-- Settles O40: the counts of the three channels after the 24 writes. -/
theorem decodeAfterWriteGivesTheLevels : Obligations.DecodeAfterWriteGivesTheLevels := by
  unfold Obligations.DecodeAfterWriteGivesTheLevels
  intro x y r g b tb s h hm hi hr hg hb hp
  obtain ⟨⟨-, hx⟩, -, hy⟩ := inPanel_iff.mp hp
  refine ⟨_, (exec_setpxb ..).trans (writePixel_of_inPanel h hi hp), ?_⟩
  have hcount {ch : Channel} := channelCount_pixelWrites h hm hx hy tb r.toNat g.toNat b.toNat (ch := ch)
  rw [decodePixel_of_inPanel hp]
  simp only [hcount (ch := .red) hr, hcount (ch := .green) hg, hcount (ch := .blue) hb, Channel.of]

/-- Pixels at different logical coordinates, both in range, are different pixels of the panel (R121). -/
theorem transform_toNat_injective {c : Config} {x y x' y' : Int} (hp : inPanel c (transform c x y) = true)
    (hp' : inPanel c (transform c x' y') = true) (hcol : (transform c x y).1.toNat = (transform c x' y').1.toNat)
    (hrow : (transform c x y).2.toNat = (transform c x' y').2.toNat) : x = x' ∧ y = y' := by
  obtain ⟨⟨hx, -⟩, hy, -⟩ := inPanel_iff.mp hp
  obtain ⟨⟨hx', -⟩, hy', -⟩ := inPanel_iff.mp hp'
  exact transform_injective c (Prod.ext (by omega) (by omega))

/-- R127, R132: the 24 writes of a pixel leave the counts of every other pixel, and of the other buffer. -/
theorem channelCount_pixelWrites_of_ne {c : Config} (h : configLegal c = true) {m : Memory} (hm : m.wf = true) {x2 y2 x2' y2' : Nat}
    (hx : x2 < c.w) (hy : y2 < c.h) (hx' : x2' < c.w) (hy' : y2' < c.h) {tb tb' : BufNo} (hne : tb' ≠ tb ∨ ¬ (x2 = x2' ∧ y2 = y2'))
    (r g b : Nat) (ch : Channel) :
    channelCount c (m.setBits (pixelWrites c tb x2 y2 r g b)) tb' x2' y2' ch = channelCount c m tb' x2' y2' ch := by
  refine List.countP_congr fun p hp => ?_
  rw [pixelBit_pixelWrites_of_ne h hm hx hy hx' hy' hne r g b (List.mem_range.mp hp) ch]

/-- R132: the 24 writes of a pixel leave `Decode` of every other pixel, and of the other buffer. -/
theorem decodePixel_pixelWrites_of_ne {c : Config} (h : configLegal c = true) {m : Memory} (hm : m.wf = true) {x y x' y' : Int}
    (hp : inPanel c (transform c x y) = true) {tb tb' : BufNo} (hne : tb' ≠ tb ∨ x' ≠ x ∨ y' ≠ y) (r g b : Nat) :
    decodePixel c (m.setBits (pixelWrites c tb (transform c x y).1.toNat (transform c x y).2.toNat r g b)) tb' x' y' =
      decodePixel c m tb' x' y' := by
  by_cases hp' : inPanel c (transform c x' y') = true
  · obtain ⟨⟨-, hx⟩, -, hy⟩ := inPanel_iff.mp hp
    obtain ⟨⟨-, hx'⟩, -, hy'⟩ := inPanel_iff.mp hp'
    have hne' : tb' ≠ tb ∨ ¬ ((transform c x y).1.toNat = (transform c x' y').1.toNat ∧
        (transform c x y).2.toNat = (transform c x' y').2.toNat) := by
      refine hne.imp_right fun hne ⟨hcol, hrow⟩ => ?_
      obtain ⟨rfl, rfl⟩ := transform_toNat_injective hp hp' hcol hrow
      exact hne.elim (· rfl) (· rfl)
    simp only [decodePixel_of_inPanel hp', channelCount_pixelWrites_of_ne h hm hx hy hx' hy' hne']
  · rw [decodePixel_of_not_inPanel hp', decodePixel_of_not_inPanel hp']

/-- Settles O41: a pixel in range is its 24 writes, which leave the others, and one out of range is nothing. -/
theorem writingAPixelLeavesTheOthers : Obligations.WritingAPixelLeavesTheOthers := by
  unfold Obligations.WritingAPixelLeavesTheOthers
  intro x y r g b tb tb' x' y' s t h hm hi hexec hne
  rw [exec_setpxb] at hexec
  by_cases hp : inPanel s.cfg (transform s.cfg x.toInt y.toInt) = true
  · rw [writePixel_of_inPanel h hi hp] at hexec
    cases hexec
    exact decodePixel_pixelWrites_of_ne h hm hp hne _ _ _
  · rw [writePixel_of_not_inPanel hp] at hexec
    cases hexec
    rfl

end Sys2Proof.Machine
end

section
/-! SUPPORT. The buffer control operations (41_buffer_control.md R151, R153, R156), each in closed form. -/

namespace Sys2Proof.Machine

/-- The other buffer (R36). -/
theorem not_bufNo (b : BufNo) : ~~~b = 1 - b := by
  revert b
  decide

/-- Settles O15: the word is the encoded operation, and the operation is one write. -/
theorem selbufChoosesTheWriteTarget : Obligations.SelbufChoosesTheWriteTarget := by
  unfold Obligations.SelbufChoosesTheWriteTarget
  exact fun which s => ⟨decode_encode (.selbuf which), rfl⟩

/-- R153: a `SWAP` at a cycle boundary is granted at once. -/
theorem exec_swap_ready {s : State} (h : s.swaprdy = true) :
    exec .swap s = .next { s with selbufR := 1 - s.selbufR, trace := s.trace ++ [.rsp 0] } := by
  rw [← not_bufNo]
  exact if_pos h

/-- R153: any other `SWAP` pends. -/
theorem exec_swap_notReady {s : State} (h : s.swaprdy = false) : exec .swap s = .next { s with swappend := true } :=
  if_neg (by simp [h])

/-- Settles O16: the two branches of `SWAP`. -/
theorem swapIsGrantedOrPends : Obligations.SwapIsGrantedOrPends := by
  unfold Obligations.SwapIsGrantedOrPends
  exact ⟨decode_encode .swap, fun _ => ⟨exec_swap_ready, exec_swap_notReady⟩⟩

/-- R156: the timeout ends a pending `SWAP`. -/
theorem exec_swtmo_pending {s : State} (h : s.swappend = true) :
    exec .swtmo s = .next { s with swappend := false, trace := s.trace ++ [.rsp 1] } := if_pos h

/-- R156, R109: a timeout with no `SWAP` pending. -/
theorem exec_swtmo_notPending {s : State} (h : s.swappend = false) : exec .swtmo s = .next s :=
  if_neg (by simp [h])

/-- Settles O17: the two branches of `SWTMO`. -/
theorem swapTimeoutAnswersOne : Obligations.SwapTimeoutAnswersOne := by
  unfold Obligations.SwapTimeoutAnswersOne
  exact ⟨decode_encode .swtmo, fun _ => ⟨exec_swtmo_pending, exec_swtmo_notPending⟩⟩

end Sys2Proof.Machine
end

section
/-! SUPPORT. What one step of the block can be, said once (30_encoding.md R96, R108, R109). -/

namespace Sys2Proof.Machine

/-- How a step can come to answer the next state `t`. -/
inductive StepTo (s t : State) : Prop where
  /-- There is no input (R2). -/
  | noInput : t = s → StepTo s t
  /-- A writer word waits and the writer's operation in progress is finished first (R75, R96). -/
  | waits : finishWriter s = .next t → StepTo s t
  /-- A word is accepted and runs (R96). -/
  | runs {w : Word} {hold : Bool} {rest : List Input} {i : Instr} : s.inputs = .word w hold :: rest → decode w = .ok i →
      exec i (s.accept hold) = .next t → StepTo s t
  /-- An illegal word is consumed (R108). -/
  | illegal (hold : Bool) : t = (s.accept hold).commandError → StepTo s t
  /-- The writer goes on (R74). -/
  | writerTurn (n : Nat) : runWriter n s.consumed = .next t → StepTo s t
  /-- The scanner goes on (R74). -/
  | scannerTurn (n : Nat) : runScanner n s.consumed = .next t → StepTo s t
  /-- Reset (R290). -/
  | restart {i0 i1 : List Byte} {rest : List Input} : s.inputs = .restart i0 i1 :: rest → t = s.consumed.restarted i0 i1 → StepTo s t

theorem stepWord_to {w : Word} {hold : Bool} {rest : List Input} {s t : State} (hi : s.inputs = .word w hold :: rest)
    (h : stepWord w hold s = .next t) : StepTo s t := by
  unfold stepWord at h
  split at h
  · cases h
  · exact .waits h
  · split at h
    · rename_i hd; exact .runs hi hd h
    · cases h; exact .illegal hold rfl

/-- Every step that answers a next state is one of these. -/
theorem step_to {s t : State} (h : step s = .next t) : StepTo s t := by
  unfold step at h
  split at h
  · split at h
    · cases h; exact .noInput rfl
    · rename_i hi; exact stepWord_to hi h
    · exact .writerTurn _ h
    · exact .scannerTurn _ h
    · rename_i hi; cases h; exact .restart hi rfl
  · cases h

/-- Finishing the writer's operation performs its owed writes, or some of the scanner's actions. -/
theorem finishWriter_next {s t : State} (h : finishWriter s = .next t) : ∃ n, t = s.writes n ∨ t = scanActions n s := by
  unfold finishWriter at h
  split at h
  · obtain ⟨n, rfl⟩ := finishScanner_next h
    exact ⟨n, .inr rfl⟩
  · exact ⟨_, .inl (runWriter_next h)⟩

/-- A pixel operation owes writes and performs some of them, or does nothing (R120). -/
theorem writePixel_next {tb : BufNo} {x y : BitVec 16} {r g b : BitVec 8} {s t : State} (h : writePixel tb x y r g b s = .next t) :
    t = s ∨ ∃ ws n, t = { s with wq := s.wq ++ ws }.writes n := by
  unfold writePixel at h
  simp only at h
  split at h
  · unfold startWriter at h
    split at h
    · cases h
      exact .inr ⟨_, 0, rfl⟩
    · exact .inr ⟨_, _, runWriter_next h⟩
  · cases h
    exact .inl rfl

end Sys2Proof.Machine
end

section
/-! SUPPORT. The buffer registers and a pending `SWAP` (41_buffer_control.md R150 to R156, 42_scan.md R178): of the scanner's actions only the
completion of the last scan step of a cycle writes them, and of the operations that do not scan only those of buffer control. -/

namespace Sys2Proof.Machine

/-! What may become of them -/

/-- The two buffer registers of the scanner and the pending `SWAP` are in `t` as in `s`. -/
structure SwapKept (s t : State) : Prop where
  actbuf : t.actbuf = s.actbuf
  selbufR : t.selbufR = s.selbufR
  swappend : t.swappend = s.swappend

theorem SwapKept.refl (s : State) : SwapKept s s := ⟨rfl, rfl, rfl⟩

theorem SwapKept.trans {s t u : State} (h : SwapKept s t) (h' : SwapKept t u) : SwapKept s u :=
  ⟨h'.actbuf.trans h.actbuf, h'.selbufR.trans h.selbufR, h'.swappend.trans h.swappend⟩

/-- From `s` to `t` at most a pending `SWAP` has ended, and only then has `SELBUF_R` changed. -/
inductive SwapMayEnd (s t : State) : Prop where
  | kept : t.selbufR = s.selbufR → t.swappend = s.swappend → SwapMayEnd s t
  | ended : s.swappend = true → t.swappend = false → SwapMayEnd s t

theorem SwapKept.mayEnd {s t : State} (h : SwapKept s t) : SwapMayEnd s t := .kept h.selbufR h.swappend

theorem SwapMayEnd.refl (s : State) : SwapMayEnd s s := .kept rfl rfl

theorem SwapMayEnd.trans {s t u : State} (h : SwapMayEnd s t) (h' : SwapMayEnd t u) : SwapMayEnd s u := by
  cases h with
  | kept hb hp =>
    cases h' with
    | kept hb' hp' => exact .kept (hb'.trans hb) (hp'.trans hp)
    | ended hp' hend => exact .ended (hp.symm.trans hp') hend
  | ended hp hend =>
    cases h' with
    | kept _ hp' => exact .ended hp (hp'.trans hend)
    | ended hp' _ => cases hend.symm.trans hp'

/-- A changed `SELBUF_R` shows that a pending `SWAP` has ended. -/
theorem SwapMayEnd.of_ne {s t : State} (h : SwapMayEnd s t) (hne : t.selbufR ≠ s.selbufR) : s.swappend = true ∧ t.swappend = false := by
  cases h with
  | kept hb _ => exact absurd hb hne
  | ended hp hend => exact ⟨hp, hend⟩

/-- `t` is past the cycle boundary that ends the cycle of `s` (R178). -/
structure CycleEnded (s t : State) : Prop where
  actbuf : t.actbuf = s.selbufR
  selbufR : t.selbufR = if s.swappend then 1 - s.selbufR else s.selbufR
  swappend : t.swappend = false
  swaprdy : t.swaprdy = true
  plane : t.plane = 0
  mux : t.mux = 0

/-- R178: the boundary. -/
theorem State.cycleBoundary_ended (s : State) : CycleEnded s { s with mux := 0, plane := 0 }.cycleBoundary := by
  constructor <;> simp [not_bufNo]

/-- The boundary sees only the buffer registers and the pending `SWAP`, so it ends the cycle of every state that has the same. -/
theorem CycleEnded.of_kept {s u t : State} (h : CycleEnded u t) (hk : SwapKept s u) : CycleEnded s t := by
  obtain ⟨hact, hsel, hpend, hready, hplane, hmux⟩ := h
  rw [hk.selbufR, hk.swappend] at hsel
  exact ⟨hact.trans hk.selbufR, hsel, hpend, hready, hplane, hmux⟩

theorem CycleEnded.mayEnd {s t : State} (h : CycleEnded s t) : SwapMayEnd s t := by
  cases hp : s.swappend with
  | false => exact .kept (by simpa [hp] using h.selbufR) (h.swappend.trans hp.symm)
  | true => exact .ended hp h.swappend

/-! The scanner's actions -/

theorem SwapKept.scanBegin (j : ScanJob) (s : State) : SwapKept s (scanBegin j s) := by
  unfold Machine.scanBegin
  split
  · exact ⟨rfl, rfl, rfl⟩
  · split
    · exact ⟨rfl, rfl, rfl⟩
    · constructor <;> simp [beginStep]

theorem SwapKept.scanByte (j : ScanJob) (k : Nat) (s : State) : SwapKept s (scanByte j k s) := by
  unfold Machine.scanByte
  split <;> exact ⟨rfl, rfl, rfl⟩

theorem SwapKept.scanLatch (j : ScanJob) (s : State) : SwapKept s (scanLatch j s) := by
  unfold Machine.scanLatch
  split <;> exact ⟨rfl, rfl, rfl⟩

/-- R177: the advance moves within the cycle, or it is over the cycle boundary. -/
theorem State.advance_kept_or_ended (s : State) :
    SwapKept s s.advance ∨ (s.plane = 7 ∧ ¬ s.mux.toNat < s.cfg.rp - 1 ∧ CycleEnded s s.advance) := by
  unfold State.advance
  split
  · exact .inl ⟨rfl, rfl, rfl⟩
  · rename_i hm
    split
    · exact .inl ⟨rfl, rfl, rfl⟩
    · exact .inr ⟨by bv_omega, hm, s.cycleBoundary_ended⟩

/-- The output-enable of the sequencer's last scan step of a cycle comes next, and the transport lets it pass. -/
structure State.EndsCycle (s : State) (j : ScanJob) : Prop where
  scan : s.scan = some j
  direct : j.direct = false
  pos : sliceBytes s.cfg + 1 < j.pos
  outcome : j.outcome ≠ .oefail
  plane : s.plane = 7
  mux : ¬ s.mux.toNat < s.cfg.rp - 1

/-- R152 (a), R178: output-enable writes the buffer registers where it completes the last scan step of a cycle, and nowhere else. -/
theorem scanEnable_kept_or_ended {s : State} {j : ScanJob} (hs : s.scan = some j) (hp : sliceBytes s.cfg + 1 < j.pos) :
    SwapKept s (scanEnable j s) ∨ (s.EndsCycle j ∧ CycleEnded s (scanEnable j s)) := by
  unfold scanEnable
  split
  · exact .inl ⟨rfl, rfl, rfl⟩
  · rename_i ho
    split
    · exact .inl ⟨rfl, rfl, rfl⟩
    · rename_i hd
      obtain h | ⟨hq, hm, h⟩ := (s.emit (.oe j.t)).advance_kept_or_ended
      · exact .inl ⟨h.actbuf, h.selbufR, h.swappend⟩
      · exact .inr ⟨⟨hs, by simpa using hd, hp, ho, hq, hm⟩, h.actbuf, h.selbufR, h.swappend, h.swaprdy, h.plane, h.mux⟩

/-- R152 (a): an action keeps the buffer registers, or it ends the cycle. -/
theorem scanAction_kept_or_ended (s : State) : SwapKept s (scanAction s) ∨ ∃ j, s.EndsCycle j ∧ CycleEnded s (scanAction s) := by
  unfold scanAction
  split
  · exact .inl (.refl s)
  · rename_i j hs
    split
    · exact .inl (.scanBegin j s)
    · split
      · exact .inl (.scanByte j _ s)
      · split
        · exact .inl (.scanLatch j s)
        · exact (scanEnable_kept_or_ended hs (by omega)).imp_right fun h => ⟨j, h⟩

theorem SwapMayEnd.scanAction (s : State) : SwapMayEnd s (scanAction s) := by
  obtain h | ⟨_, -, h⟩ := scanAction_kept_or_ended s
  · exact h.mayEnd
  · exact h.mayEnd

theorem SwapMayEnd.scanActions (n : Nat) (s : State) : SwapMayEnd s (scanActions n s) := by
  induction n generalizing s with
  | zero => exact .refl s
  | succ n ih => exact (SwapMayEnd.scanAction s).trans (ih _)

/-- R181: a `SCANSTEP` has one step. -/
theorem ScanJob.next_direct {j : ScanJob} (h : j.direct = true) : j.next = none := by
  unfold ScanJob.next
  split
  · rfl
  · exact if_pos h

/-- No job of the sequencer is in progress: none, or a `SCANSTEP`'s. -/
def State.SequencerIdle (s : State) : Prop := ∀ j, s.scan = some j → j.direct = true

/-- The scanner's actions start no job of the sequencer. -/
theorem ScanMove.sequencerIdle {s t : State} (m : ScanMove s t) (h : s.SequencerIdle) : t.SequencerIdle := by
  cases m with
  | idle => exact h
  | stopped | failed => exact fun _ e => nomatch e
  | beginSequenced hs _ hd | enabledSequenced hs _ hd => cases hd.symm.trans (h _ hs)
  | beginDirect _ _ hd => rintro _ ⟨⟩; exact hd
  | sent _ hs | latched hs => rintro _ ⟨⟩; exact (h _ hs :)
  | enabledDirect _ _ hd => exact fun _ e => nomatch (ScanJob.next_direct hd).symm.trans e

/-- R181: a `SCANSTEP` moves no buffer register. -/
theorem State.SequencerIdle.scanActions {s : State} (h : s.SequencerIdle) (n : Nat) : SwapKept s (scanActions n s) := by
  induction n generalizing s with
  | zero => exact .refl s
  | succ n ih =>
    obtain hk | ⟨j, hj, -⟩ := scanAction_kept_or_ended s
    · exact hk.trans (ih ((scanAction_move s).sequencerIdle h))
    · cases hj.direct.symm.trans (h j hj.scan)

/-! The operations -/

theorem SwapMayEnd.gatedScan {closed : State → Bool} {k : State → Host.Outcome State Fault Refusal} {s t : State}
    (hk : ∀ u, k u = .next t → SwapMayEnd u t) (h : gatedScan closed k s = .next t) : SwapMayEnd s t := by
  obtain ⟨-, rfl⟩ | ⟨-, n, ⟨-, rfl⟩ | ⟨-, h⟩⟩ := gatedScan_next h
  · exact .refl _
  · exact .scanActions n s
  · exact (SwapMayEnd.scanActions n s).trans (hk _ h)

theorem SwapMayEnd.startScanner {j : ScanJob} {s t : State} (h : startScanner j s = .next t) : SwapMayEnd s t := by
  obtain ⟨n, rfl⟩ := startScanner_next h
  have hset : SwapKept s (s.setScan (some j)) := ⟨rfl, rfl, rfl⟩
  exact hset.mayEnd.trans (.scanActions n _)

theorem SwapMayEnd.scanSteps {n : Nat} {s t : State} (h : scanSteps n s = .next t) : SwapMayEnd s t := by
  cases n with
  | zero => cases h; exact .refl s
  | succ k => exact .startScanner h

theorem SwapMayEnd.execScanstep {buf : BufNo} {plane : BitVec 3} {mux : BitVec 5} {ot : BitVec 16} {s t : State}
    (h : execScanstep buf plane mux ot s = .next t) : SwapMayEnd s t := by
  unfold Machine.execScanstep at h
  split at h
  · cases h; exact .kept rfl rfl
  · exact .gatedScan (fun _ => .startScanner) h

/-- R181: with no scan operation in progress a `SCANSTEP` leaves the buffer registers. -/
theorem SwapKept.execScanstep {buf : BufNo} {plane : BitVec 3} {mux : BitVec 5} {ot : BitVec 16} {s t : State} (hs : s.scan = none)
    (h : execScanstep buf plane mux ot s = .next t) : SwapKept s t := by
  unfold Machine.execScanstep at h
  split at h
  · cases h; exact ⟨rfl, rfl, rfl⟩
  · obtain ⟨-, rfl⟩ | ⟨-, n, h⟩ := gatedScan_next h
    · exact .refl _
    · rw [scanActions_of_none hs] at h
      obtain ⟨-, rfl⟩ | ⟨-, h⟩ := h
      · exact .refl _
      · obtain ⟨m, rfl⟩ := startScanner_next h
        have hidle : (s.setScan (some (directJob buf plane mux ot))).SequencerIdle := by rintro _ ⟨⟩; rfl
        have hkept := hidle.scanActions m
        exact ⟨hkept.actbuf, hkept.selbufR, hkept.swappend⟩

theorem SwapKept.writePixel {tb : BufNo} {x y : BitVec 16} {r g b : BitVec 8} {s t : State} (h : writePixel tb x y r g b s = .next t) :
    SwapKept s t := by
  obtain rfl | ⟨ws, n, rfl⟩ := writePixel_next h
  · exact .refl _
  · exact ⟨rfl, rfl, rfl⟩

/-- What an operation makes of the buffer registers (R150): nothing, the grant of a `SWAP` presented in the ready window (R153), or what the
scanner's actions make of them. -/
inductive BufferMove (i : Instr) (s t : State) : Prop where
  | kept : t.actbuf = s.actbuf → t.selbufR = s.selbufR → BufferMove i s t
  | granted : i = .swap → s.swaprdy = true → t.actbuf = s.actbuf → BufferMove i s t
  | scans : i = .tick ∨ i = .step ∨ (i.mnemonic = "SCANSTEP" ∧ s.scan ≠ none) → SwapMayEnd s t → BufferMove i s t

theorem SwapKept.bufferMove {s t : State} (h : SwapKept s t) (i : Instr) : BufferMove i s t := .kept h.actbuf h.selbufR

/-- R150: every operation does one of these. -/
theorem exec_bufferMove {i : Instr} {s t : State} (h : exec i s = .next t) : BufferMove i s t := by
  cases i with
  | nop | selbuf _ | setont _ => cases h; exact .kept rfl rfl
  | setpx x y r g b => exact (SwapKept.writePixel h).bufferMove _
  | setpxb x y r g b tb => exact (SwapKept.writePixel h).bufferMove _
  | swap =>
    cases hr : s.swaprdy with
    | true => rw [exec_swap_ready hr] at h; cases h; exact .granted rfl hr rfl
    | false => rw [exec_swap_notReady hr] at h; cases h; exact .kept rfl rfl
  | power on =>
    change execPower on s = _ at h
    unfold execPower at h
    split at h <;> cases h <;> exact .kept rfl rfl
  | rdreg n =>
    change execRdreg n s = _ at h
    unfold execRdreg at h
    split at h <;> cases h <;> exact .kept rfl rfl
  | tick => exact .scans (.inl rfl) (.gatedScan (fun _ => .scanSteps) h)
  | step => exact .scans (.inr (.inl rfl)) (.gatedScan (fun _ => .scanSteps) h)
  | scanstep buf plane mux ot =>
    by_cases hs : s.scan = none
    · exact (SwapKept.execScanstep hs h).bufferMove _
    · exact .scans (.inr (.inr ⟨rfl, hs⟩)) (.execScanstep h)
  | swtmo =>
    cases hp : s.swappend with
    | true => rw [exec_swtmo_pending hp] at h; cases h; exact .kept rfl rfl
    | false => rw [exec_swtmo_notPending hp] at h; cases h; exact .kept rfl rfl

/-! The obligations -/

/-- Settles O18: an action that writes `ACTBUF` ends a cycle, and with none in progress only the sequencer has actions. -/
theorem actbufChangesOnlyAtACycleBoundary : Obligations.ActbufChangesOnlyAtACycleBoundary := by
  unfold Obligations.ActbufChangesOnlyAtACycleBoundary
  refine ⟨fun s hne => ?_, fun i s t hs h hne => ?_⟩
  · obtain hk | ⟨j, hj, hend⟩ := scanAction_kept_or_ended s
    · exact absurd hk.actbuf hne
    · exact ⟨hend.actbuf, hj.plane, hj.mux, hend.plane, hend.mux, hend.swaprdy⟩
  · cases exec_bufferMove h with
    | kept hact _ => exact absurd hact hne
    | granted _ _ hact => exact absurd hact hne
    | scans hi _ => exact hi.imp_right fun hi => hi.resolve_right fun hi => hi.2 hs

/-- R152 (b), R178: an action that changes `SELBUF_R` ends the cycle and grants the pending `SWAP`. -/
theorem scanAction_grants {s : State} (hne : (scanAction s).selbufR ≠ s.selbufR) :
    ∃ j, s.EndsCycle j ∧ CycleEnded s (scanAction s) ∧ s.swappend = true ∧ (scanAction s).selbufR = 1 - s.selbufR := by
  obtain hk | ⟨j, hj, hend⟩ := scanAction_kept_or_ended s
  · exact absurd hk.selbufR hne
  · obtain ⟨hp, -⟩ := hend.mayEnd.of_ne hne
    exact ⟨j, hj, hend, hp, hend.selbufR.trans (if_pos hp)⟩

/-- R152 (b): an operation that changes `SELBUF_R` is a `SWAP` granted at once, or one that lets the scanner act and ends a pending `SWAP`. -/
theorem exec_grants {i : Instr} {s t : State} (h : exec i s = .next t) (hne : t.selbufR ≠ s.selbufR) :
    (i = .swap ∧ s.swaprdy = true) ∨
    (s.swappend = true ∧ t.swappend = false ∧ (i = .tick ∨ i = .step ∨ (i.mnemonic = "SCANSTEP" ∧ s.scan ≠ none))) := by
  cases exec_bufferMove h with
  | kept _ hsel => exact absurd hsel hne
  | granted hi hr _ => exact .inl ⟨hi, hr⟩
  | scans hi hend =>
    obtain ⟨hp, hp'⟩ := hend.of_ne hne
    exact .inr ⟨hp, hp', hi⟩

/-- R152 (b): a step, no restart, that changes `SELBUF_R` takes the word of a `SWAP` granted at once, or ends a pending `SWAP`. -/
theorem step_grants {s t : State} (h : step s = .next t) (hr : ∀ i0 i1 rest, s.inputs ≠ .restart i0 i1 :: rest)
    (hne : t.selbufR ≠ s.selbufR) :
    (s.swaprdy = true ∧ ∃ w hold rest, s.inputs = .word w hold :: rest ∧ decode w = .ok .swap) ∨
    (s.swappend = true ∧ t.swappend = false) := by
  cases step_to h with
  | noInput e => exact absurd (e ▸ rfl) hne
  | illegal _ e => exact absurd (e ▸ rfl) hne
  | writerTurn _ hw => exact absurd (runWriter_next hw ▸ rfl) hne
  | restart hi _ => exact absurd hi (hr _ _ _)
  | waits hw =>
    obtain ⟨n, rfl | rfl⟩ := finishWriter_next hw
    · exact absurd rfl hne
    · exact .inr ((SwapMayEnd.scanActions n s).of_ne hne)
  | scannerTurn n hs =>
    rw [runScanner_next hs] at hne ⊢
    exact .inr ((SwapMayEnd.scanActions n s.consumed).of_ne hne)
  | runs hi hd hx =>
    obtain ⟨rfl, hready⟩ | ⟨hp, hp', -⟩ := exec_grants hx hne
    · exact .inl ⟨hready, _, _, _, hi, hd⟩
    · exact .inr ⟨hp, hp'⟩

/-- Settles O19: clause by clause, for an action, an operation and a step. -/
theorem selbufRChangesOnlyByAGrant : Obligations.SelbufRChangesOnlyByAGrant := by
  unfold Obligations.SelbufRChangesOnlyByAGrant
  refine ⟨fun s hne => ?_, fun i s t => exec_grants, fun s t => step_grants⟩
  obtain ⟨j, hj, hend, hp, hsel⟩ := scanAction_grants hne
  exact ⟨hsel, hp, hend.swappend, hj.plane, hj.mux, hend.plane, hend.mux, hend.swaprdy, j, hj.scan, hj.direct, hj.pos, hj.outcome⟩

end Sys2Proof.Machine
end

section
/-! SUPPORT. Completed scan steps one after another: to the end of the cycle in progress, over its boundary, and through the next (42_scan.md R177 to
R179, 41_buffer_control.md R157, R158). -/

namespace Sys2Proof.Machine

/-! A running scanner whose next answers are ok -/

/-- The scanner runs, is idle, and its next `n` scan steps are not let down. -/
structure State.Scans (s : State) (n : Nat) : Prop where
  running : s.Running
  idle : s.ScannerIdle
  answersOk : s.AnswersOk n

theorem State.Scans.mono {s : State} {m n : Nat} (h : s.Scans n) (hle : m ≤ n) : s.Scans m :=
  ⟨h.running, h.idle, fun k hk => h.answersOk k (by omega)⟩

/-- A `STEP` whose answer is ok is completed (R170, R176). -/
theorem State.Scans.exec_step {s : State} {n : Nat} (h : s.Scans (n + 1)) : exec .step s = .next (s.stepped s.ontime) := by
  have hok : s.nextOutcome = .ok := h.answersOk 0 (by omega)
  exact execStep_done h.running h.idle (by rw [hok]; rfl)

/-- A completed step takes one answer (R253). -/
theorem State.stepped_answer (s : State) (t : BitVec 16) (k : Nat) : (s.stepped t).answer k = s.answer (k + 1) := by
  obtain ⟨-, -, -, -, -, -, -, horacle, hdraws⟩ := s.stepped_keeps t
  rw [← State.answer_drawn]
  simp only [State.answer, horacle, hdraws, State.drawn_oracle, State.drawn_draws]

/-- R177: a completed step leaves the sequencer at one of its positions. -/
theorem State.stepped_positionInv {s : State} (h : s.PositionInv) (t : BitVec 16) : (s.stepped t).PositionInv :=
  State.PositionInv.advance (h.of_same (by simp) (by simp [State.emitAll_eq]))

theorem State.stepped_running {s : State} (h : s.Running) (t : BitVec 16) : (s.stepped t).Running := by
  obtain ⟨hcfg, hmux, hrun, hfault⟩ := h
  obtain ⟨hkeeps, -, hfault', -⟩ := s.stepped_keeps t
  obtain ⟨hcfg', hmux'⟩ := State.stepped_positionInv ⟨hcfg, hmux⟩ t
  exact ⟨hcfg', hmux', hkeeps.run.trans hrun, hfault'.trans hfault⟩

theorem State.stepped_idle {s : State} (h : s.ScannerIdle) (t : BitVec 16) : (s.stepped t).ScannerIdle := by
  obtain ⟨hkeeps, hscan, -⟩ := s.stepped_keeps t
  exact ⟨hscan.trans h.1, hkeeps.hold.trans h.2⟩

theorem State.Scans.stepped {s : State} {n : Nat} (h : s.Scans (n + 1)) (t : BitVec 16) : (s.stepped t).Scans n :=
  ⟨State.stepped_running h.running t, State.stepped_idle h.idle t, fun k hk => by
    rw [State.stepped_answer]
    exact h.answersOk (k + 1) (by omega)⟩

/-! The position after a completed step -/

/-- The last position of a cycle is the last address of plane 7 (R179). -/
theorem State.position_last_iff {s : State} (h : s.Running) :
    s.position + 1 = 8 * s.cfg.rp ↔ s.plane = 7 ∧ s.mux.toNat = s.cfg.rp - 1 := by
  have hmux := h.2.1
  have hplane := s.plane.isLt
  unfold State.position
  constructor
  · intro hlast
    have hseven : s.plane.toNat = 7 := by
      by_contra hne
      have hle : (s.plane.toNat + 1) * s.cfg.rp ≤ 7 * s.cfg.rp := Nat.mul_le_mul_right _ (by omega)
      rw [Nat.succ_mul] at hle
      omega
    rw [hseven] at hlast
    exact ⟨BitVec.eq_of_toNat_eq hseven, by omega⟩
  · rintro ⟨hseven, hlast⟩
    rw [hseven]
    show 7 * s.cfg.rp + s.mux.toNat + 1 = 8 * s.cfg.rp
    omega

theorem State.position_lt {s : State} (h : s.PositionInv) : s.position < 8 * s.cfg.rp := by
  have hmux := h.2
  have hle : (s.plane.toNat + 1) * s.cfg.rp ≤ 8 * s.cfg.rp := Nat.mul_le_mul_right _ s.plane.isLt
  rw [Nat.succ_mul] at hle
  unfold State.position
  omega

/-- R177: within a cycle the position counts up by one. -/
theorem State.stepped_position {s : State} (h : s.Running) (hp : s.position + 1 ≠ 8 * s.cfg.rp) (t : BitVec 16) :
    (s.stepped t).position = s.position + 1 := by
  have hrp := h.rp_pos
  have hcfg := (s.stepped_keeps t).1.cfg
  unfold State.position
  rw [hcfg]
  rcases s.stepped_cases h t with ⟨hm, e⟩ | ⟨hm, hq, e⟩ | ⟨hm, hq, -⟩
  · have hmux : (s.stepped t).mux.toNat = s.mux.toNat + 1 := by
      rw [e]
      show (s.mux + 1).toNat = _
      bv_omega
    have hplane : (s.stepped t).plane = s.plane := by
      rw [e]
      simp [State.emitAll_eq]
    rw [hmux, hplane, Nat.add_assoc]
  · have hmux : (s.stepped t).mux.toNat = 0 := by rw [e]; rfl
    have hplane : (s.stepped t).plane.toNat = s.plane.toNat + 1 := by
      rw [e]
      show (s.plane + 1).toNat = _
      bv_omega
    rw [hmux, hplane, Nat.succ_mul]
    omega
  · exact absurd ((State.position_last_iff h).mpr ⟨hq, hm⟩) hp

/-- R178: the step at the last position ends the cycle. -/
theorem State.stepped_ended {s : State} (h : s.Running) (hp : s.position + 1 = 8 * s.cfg.rp) (t : BitVec 16) :
    CycleEnded s (s.stepped t) := by
  have hrp := h.rp_pos
  obtain ⟨hq, hm⟩ := (State.position_last_iff h).mp hp
  rcases s.stepped_cases h t with ⟨hm', -⟩ | ⟨-, hq', -⟩ | ⟨-, -, e⟩
  · omega
  · rw [hq] at hq'
    exact absurd hq' (by decide)
  · rw [e]
    exact (State.cycleBoundary_ended _).of_kept (by constructor <;> simp [State.emitAll_eq])

/-- `u` is `k` completed scan steps after `s` in the same cycle. -/
structure SameCycle (s u : State) (k : Nat) : Prop where
  cfg : u.cfg = s.cfg
  position : u.position = s.position + k
  swap : SwapKept s u

theorem SameCycle.stepped {s u : State} {k : Nat} (h : SameCycle s u k) (hrun : u.Running) (hp : s.position + k + 1 ≠ 8 * s.cfg.rp)
    (t : BitVec 16) : SameCycle s (u.stepped t) (k + 1) := by
  rw [← h.position, ← h.cfg] at hp
  obtain ⟨-, hact, hsel, hpend⟩ := u.stepped_offBoundary hrun (mt (State.position_last_iff hrun).mpr hp) t
  exact ⟨(u.stepped_keeps t).1.cfg.trans h.cfg, (State.stepped_position hrun hp t).trans (congrArg (· + 1) h.position),
    h.swap.trans ⟨hact, hsel, hpend⟩⟩

/-! Runs of `STEP`s -/

theorem execAll_step_succ {k : Nat} {s u : State} (h : execAll (List.replicate k .step) s = .next u) :
    execAll (List.replicate (k + 1) .step) s = exec .step u := by
  rw [List.replicate_succ', execAll_append h, execAll_singleton]

/-- R157: fewer `STEP`s than the cycle still has stay in it. -/
theorem execAll_steps_sameCycle {s : State} {n k : Nat} (h : s.Scans n) (hn : k ≤ n) (hk : k < s.stepsLeft) :
    ∃ u, execAll (List.replicate k .step) s = .next u ∧ u.Scans (n - k) ∧ SameCycle s u k := by
  induction k with
  | zero => exact ⟨s, rfl, h, rfl, rfl, .refl s⟩
  | succ k ih =>
    obtain ⟨u, hu, hscans, hsame⟩ := ih (by omega) (by omega)
    have hone : u.Scans (n - (k + 1) + 1) := hscans.mono (by omega)
    unfold State.stepsLeft at hk
    exact ⟨_, (execAll_step_succ hu).trans hone.exec_step, hone.stepped _, hsame.stepped hscans.running (by omega) _⟩

/-- R157, R178: as many `STEP`s as the cycle still has end it. -/
theorem execAll_steps_ended {s : State} {n : Nat} (h : s.Scans (s.stepsLeft + n)) :
    ∃ t, execAll (List.replicate s.stepsLeft .step) s = .next t ∧ t.Scans n ∧ t.cfg = s.cfg ∧ CycleEnded s t := by
  have hlt := State.position_lt ⟨h.running.1, h.running.2.1⟩
  obtain ⟨k, hk⟩ : ∃ k, s.stepsLeft = k + 1 := Nat.exists_eq_succ_of_ne_zero (by unfold State.stepsLeft; omega)
  obtain ⟨u, hu, hscans, hcfg, hpos, hswap⟩ := execAll_steps_sameCycle h (k := k) (by omega) (by omega)
  have hone : u.Scans (n + 1) := hscans.mono (by omega)
  have hlast : u.position + 1 = 8 * u.cfg.rp := by
    unfold State.stepsLeft at hk
    rw [hpos, hcfg]
    omega
  rw [hk]
  refine ⟨_, (execAll_step_succ hu).trans hone.exec_step, hone.stepped _, (u.stepped_keeps _).1.cfg.trans hcfg, ?_⟩
  exact (State.stepped_ended hone.running hlast _).of_kept hswap

/-- At the start of a cycle all its steps are left (R157). -/
theorem CycleEnded.stepsLeft {s t : State} (h : CycleEnded s t) : t.stepsLeft = 8 * t.cfg.rp := by
  simp [State.stepsLeft, State.position, h.plane, h.mux]

/-- Settles O30: the cycle in progress, its boundary with the grant, the next cycle and its boundary. -/
theorem swapShowsOneCycleAfterItsGrant : Obligations.SwapShowsOneCycleAfterItsGrant := by
  unfold Obligations.SwapShowsOneCycleAfterItsGrant
  intro s hrun hidle hpend hok
  have h : s.Scans (s.stepsLeft + 8 * s.cfg.rp) := ⟨hrun, hidle, hok⟩
  obtain ⟨t, ht, hscans, hcfg, hend⟩ := execAll_steps_ended h
  have hgranted : t.selbufR = 1 - s.selbufR := hend.selbufR.trans (if_pos hpend)
  have hleft : t.stepsLeft = 8 * s.cfg.rp := hcfg ▸ hend.stepsLeft
  refine ⟨fun k hk => ?_, t, ht, hend.actbuf, hgranted, hend.swappend, hend.plane, hend.mux, fun k hk => ?_, ?_⟩
  · obtain ⟨u, hu, -, hsame⟩ := execAll_steps_sameCycle h (by omega) hk
    exact ⟨u, hu, hsame.swap.actbuf, hsame.swap.selbufR, hsame.swap.swappend.trans hpend⟩
  · obtain ⟨u, hu, -, hsame⟩ := execAll_steps_sameCycle hscans (by omega) (hleft ▸ hk)
    exact ⟨u, hu, hsame.swap.actbuf.trans hend.actbuf⟩
  · rw [← hleft] at hscans ⊢
    obtain ⟨u, hu, -, -, hend'⟩ := execAll_steps_ended (n := 0) hscans
    exact ⟨u, hu, hend'.actbuf.trans hgranted⟩

end Sys2Proof.Machine
end

section
/-! SUPPORT. One scan operation on an idle scanner, read off the closed forms of its scan step (42_scan.md R170 to R178, R181). -/

namespace Sys2Proof.Machine

/-! Nothing to do, or rejected -/

/-- Settles O24: the gate is closed. -/
theorem stoppedScannerDoesNothing : Obligations.StoppedScannerDoesNothing := by
  unfold Obligations.StoppedScannerDoesNothing
  refine fun s => ⟨fun h => ?_, fun buf plane mux t hfault hrun hmux => ?_⟩
  · have hclosed : s.scannerStopped = true := by simpa [State.scannerStopped] using h
    exact ⟨gatedScan_closed hclosed, gatedScan_closed hclosed⟩
  · have haccepted : ¬ (s.run || !WellFormed.muxInRange s.cfg mux) = true := by simp [hrun, WellFormed.muxInRange, hmux]
    exact (if_neg haccepted).trans (gatedScan_closed hfault)

/-- Settles O32: the rejection comes first. -/
theorem scanstepIsRejected : Obligations.ScanstepIsRejected := by
  unfold Obligations.ScanstepIsRejected
  intro buf plane mux ot s h
  have hrejected : (s.run || !WellFormed.muxInRange s.cfg mux) = true := by simpa [WellFormed.muxInRange] using h
  exact if_pos hrejected

/-! `SCANSTEP` -/

/-- Settles O31: the state after the step's events, and the pins after them. -/
theorem scanstepEmitsItsOwnStep : Obligations.ScanstepEmitsItsOwnStep := by
  unfold Obligations.ScanstepEmitsItsOwnStep
  intro buf plane mux ot s _ hidle hrun hfault hmux hok
  refine ⟨_, ?_, pins_after_step s.pins s.cfg s.mem buf plane mux ot⟩
  exact (execScanstep_done hrun hfault hidle hmux hok).trans (congrArg _ (State.emitAll_eq ..))

/-- A `SCANSTEP` that is not rejected and that the transport lets down (R181, R173, R256). -/
theorem execScanstep_failed {buf : BufNo} {q : BitVec 3} {mux : BitVec 5} {t : BitVec 16} {s : State} (hr : s.run = false)
    (hf : s.fault = false) (hi : s.ScannerIdle) (hm : mux.toNat < s.cfg.rp) (ho : failing s.cfg s.nextOutcome = true) :
    execScanstep buf q mux t s =
      .next ((s.drawn.emitAll (failedEvents s.cfg s.mem buf q mux s.nextOutcome)).takeFault (causeOf s.nextOutcome)
        (directJob buf q mux t)) := by
  let j := directJob buf q mux t
  have hfailed : scanActions (stepActions s.cfg) (s.setScan (some j)) =
      ((s.setScan (some j)).drawn.emitAll (failedEvents s.cfg s.mem buf q mux s.nextOutcome)).takeFault (causeOf s.nextOutcome) j :=
    scanActions_direct_failed (j := j) (s := s.setScan (some j)) rfl rfl rfl ho
  rw [execScanstep_running hr hf hi hm, hfailed, State.setScan_drawn, State.emitAll_setScan, State.setScan_takeFault]

/-- Settles O33: the events up to the failure, and then the fault of the direct job. -/
theorem failedScanstepRecordsItsOperands : Obligations.FailedScanstepRecordsItsOperands := by
  unfold Obligations.FailedScanstepRecordsItsOperands
  intro buf plane mux ot s _ hidle hrun hfault hmux hfailing
  refine ⟨_, execScanstep_failed hrun hfault hidle hmux hfailing, ?_⟩
  simp [State.emitAll_eq, directJob, State.answer_zero]

/-! `STEP` -/

/-- R177, R178: of the advance only a cycle boundary shows in the trace, by the response to a pending `SWAP`. -/
theorem State.advance_trace (s : State) : s.advance.trace = s.trace ++
    (if ¬ s.mux.toNat < s.cfg.rp - 1 ∧ ¬ s.plane.toNat < 7 ∧ s.swappend = true then [.rsp 0] else []) := by
  unfold State.advance
  split
  · rename_i hm
    simp [hm]
  · rename_i hm
    split
    · rename_i hp
      simp [hp]
    · rename_i hp
      simp [hm, hp]

/-- R170, R177, R178: a completed step emits its events and, over the boundary, the response to a pending `SWAP`. -/
theorem State.stepped_trace {s : State} (h : s.Running) (t : BitVec 16) : (s.stepped t).trace =
    s.trace ++ stepEvents s.cfg s.mem s.actbuf s.plane s.mux t ++
      (if s.plane = 7 ∧ s.mux.toNat = s.cfg.rp - 1 ∧ s.swappend = true then [.rsp 0] else []) := by
  have hmux := h.2.1
  have hboundary : (¬ s.mux.toNat < s.cfg.rp - 1 ∧ ¬ s.plane.toNat < 7 ∧ s.swappend = true) ↔
      (s.plane = 7 ∧ s.mux.toNat = s.cfg.rp - 1 ∧ s.swappend = true) := by
    have hplane : ¬ s.plane.toNat < 7 ↔ s.plane = 7 := by bv_omega
    have hlast : ¬ s.mux.toNat < s.cfg.rp - 1 ↔ s.mux.toNat = s.cfg.rp - 1 := by omega
    rw [hplane, hlast, and_left_comm]
  simp only [← hboundary]
  simp [State.stepped, State.advance_trace, State.emitAll_eq]

/-- R40, R171: the pins after a completed step. -/
theorem State.stepped_pins (s : State) (t : BitVec 16) : (s.stepped t).pins.a = addrCode s.cfg s.mux ∧ (s.stepped t).pins.lat = false ∧
    (s.stepped t).pins.oe = false ∧ (s.stepped t).pins.pwrEn = s.pins.pwrEn := by
  have hpins := pins_after_step s.pins s.cfg s.mem s.actbuf s.plane s.mux t
  simpa [State.stepped, State.emitAll_eq] using hpins

/-- Settles O20: the trace, the pins and what a completed step keeps. -/
theorem stepEmitsOneScanStep : Obligations.StepEmitsOneScanStep := by
  unfold Obligations.StepEmitsOneScanStep
  intro s hrun hidle hok
  obtain ⟨ha, hlat, hoe, hpwr⟩ := s.stepped_pins s.ontime
  obtain ⟨hkeeps, -, hfault, hfcause, hfplane, hfmux, hfbuf, horacle, hdraws⟩ := s.stepped_keeps s.ontime
  exact ⟨_, execStep_done hrun hidle hok, s.stepped_trace hrun _, ha, hlat, hoe, hpwr, horacle, hdraws, s.stepped_idle hidle _, hkeeps.cfg,
    hkeeps.mem, hkeeps.wq, hkeeps.wrbuf, hkeeps.ontime, hkeeps.run, hfault, hfcause, hfplane, hfmux, hfbuf, hkeeps.cmderr, hkeeps.inputs⟩

/-- R177: the position after a completed step, along a plane and over its end. -/
theorem State.stepped_mux_plane {s : State} (h : s.Running) (t : BitVec 16) :
    (s.mux.toNat < s.cfg.rp - 1 → (s.stepped t).mux.toNat = s.mux.toNat + 1 ∧ (s.stepped t).plane = s.plane) ∧
    (s.mux.toNat = s.cfg.rp - 1 → (s.stepped t).mux = 0 ∧ (s.stepped t).plane.toNat = (s.plane.toNat + 1) % 8) := by
  have hrp := h.rp_pos
  rcases s.stepped_cases h t with ⟨hm, e⟩ | ⟨hm, hq, e⟩ | ⟨hm, hq, e⟩
  · refine ⟨fun _ => ⟨?_, by rw [e]; simp [State.emitAll_eq]⟩, by omega⟩
    rw [e]
    show (s.mux + 1).toNat = _
    bv_omega
  · refine ⟨by omega, fun _ => ⟨by rw [e], ?_⟩⟩
    rw [e]
    exact BitVec.toNat_add ..
  · refine ⟨by omega, fun _ => ⟨by rw [e, State.cycleBoundary_mux], ?_⟩⟩
    rw [e, State.cycleBoundary_plane, hq]
    rfl

/-- R256: a failed step keeps the position. -/
theorem State.stepFailed_mux_plane (s : State) (j : ScanJob) : (s.stepFailed j).mux = s.mux ∧ (s.stepFailed j).plane = s.plane := by
  simp [State.stepFailed, State.emitAll_eq]

/-- Settles O21: the transport lets the step down, or it does not. -/
theorem stepAdvancesThePosition : Obligations.StepAdvancesThePosition := by
  unfold Obligations.StepAdvancesThePosition
  intro s hrun hidle
  cases ho : failing s.cfg (s.answer 0) with
  | true =>
    obtain ⟨hmux, hplane⟩ := s.stepFailed_mux_plane (sequencedJob s 0)
    exact ⟨_, execStep_failed hrun hidle ho, hmux ▸ hrun.2.1, nofun, fun _ => ⟨hmux, hplane⟩⟩
  | false =>
    obtain ⟨hcfg, hmux, -⟩ := State.stepped_running hrun s.ontime
    rw [(s.stepped_keeps s.ontime).1.cfg] at hmux
    exact ⟨_, execStep_done hrun hidle ho, hmux, fun _ => State.stepped_mux_plane hrun _, nofun⟩

/-- Settles O22: the boundary, and the trace that ends with the response to a pending `SWAP`. -/
theorem cycleBoundaryShowsAndGrants : Obligations.CycleBoundaryShowsAndGrants := by
  unfold Obligations.CycleBoundaryShowsAndGrants
  intro s hrun hidle hok hplane hmux
  have hend := State.stepped_ended hrun ((State.position_last_iff hrun).mpr ⟨hplane, hmux⟩) s.ontime
  refine ⟨_, execStep_done hrun hidle hok, hend.actbuf, hend.swaprdy, hend.swappend, fun hpend => ?_, fun hpend => ?_⟩
  · refine ⟨hend.selbufR.trans (if_pos hpend), stepEvents s.cfg s.mem s.actbuf s.plane s.mux s.ontime, ?_⟩
    rw [s.stepped_trace hrun, if_pos ⟨hplane, hmux, hpend⟩]
  · exact hend.selbufR.trans (if_neg (by simp [hpend]))

end Sys2Proof.Machine
end

section
/-! SUPPORT. The on-time of the output-enable pulses (42_scan.md R172, R175): every pulse of a job has the job's, and the job keeps it. -/

namespace Sys2Proof.Machine

/-- From `s` to `t` the trace has grown, and every output-enable pulse it has grown by has the duration `v`. -/
def PulsesAt (v : BitVec 16) (s t : State) : Prop := ∃ es, t.trace = s.trace ++ es ∧ ∀ v', Event.oe v' ∈ es → v' = v

theorem PulsesAt.of_trace_eq {v : BitVec 16} {s t : State} (h : t.trace = s.trace) : PulsesAt v s t := ⟨[], by simp [h], nofun⟩

theorem PulsesAt.trans {v : BitVec 16} {s t u : State} (h : PulsesAt v s t) (h' : PulsesAt v t u) : PulsesAt v s u := by
  obtain ⟨es, ht, hes⟩ := h
  obtain ⟨es', hu, hes'⟩ := h'
  refine ⟨es ++ es', by rw [hu, ht, List.append_assoc], fun v' hv' => ?_⟩
  exact (List.mem_append.mp hv').elim (hes v') (hes' v')

/-- One event, which is no pulse or one of the duration. -/
theorem PulsesAt.emit {v : BitVec 16} {e : Event} (h : ∀ v', e = .oe v' → v' = v) (s : State) : PulsesAt v s (s.emit e) :=
  ⟨[e], rfl, fun v' hv' => h v' (List.mem_singleton.mp hv').symm⟩

/-- R178: the advance makes no pulse. -/
theorem PulsesAt.advance (v : BitVec 16) (s : State) : PulsesAt v s s.advance := by
  refine ⟨_, s.advance_trace, fun v' hv' => ?_⟩
  split at hv' <;> simp at hv'

/-- A step's begin makes no pulse. -/
theorem PulsesAt.beginStep (v : BitVec 16) (j : ScanJob) (s : State) : PulsesAt v s (beginStep j s) :=
  ⟨_, beginStep_trace j s, fun v' hv' => by simp at hv'⟩

/-- R175: the steps after this one keep the job's on-time. -/
theorem ScanJob.next_t {j j' : ScanJob} (h : j.next = some j') : j'.t = j.t := by
  unfold ScanJob.next at h
  split at h
  · cases h
  · split at h <;> cases h
    rfl

/-- R175: what an action leaves of the job keeps its on-time. -/
theorem ScanMove.jobTime {s t : State} (m : ScanMove s t) {j j' : ScanJob} (hs : s.scan = some j) (ht : t.scan = some j') : j'.t = j.t := by
  cases m with
  | idle => cases hs.symm.trans ht; rfl
  | stopped | failed => cases ht
  | beginSequenced hs' | beginDirect hs' | sent _ hs' | latched hs' => cases ht; cases hs.symm.trans hs'; rfl
  | enabledDirect hs' | enabledSequenced hs' => cases hs.symm.trans hs'; exact ScanJob.next_t ht

/-- R172: a pulse an action makes has the job's on-time. -/
theorem ScanMove.pulsesAt {s t : State} (m : ScanMove s t) {j : ScanJob} (hs : s.scan = some j) : PulsesAt j.t s t := by
  cases m with
  | idle | stopped | failed => exact .of_trace_eq rfl
  | beginSequenced => exact (PulsesAt.of_trace_eq s.cycleStarted_trace).trans (.beginStep ..)
  | beginDirect => exact .beginStep ..
  | sent b => exact .emit (e := .tx b) nofun s
  | latched => exact .emit (e := .lat) nofun s
  | enabledDirect hs' =>
    cases hs.symm.trans hs'
    exact .emit (fun _ e => by cases e; rfl) s
  | enabledSequenced hs' =>
    cases hs.symm.trans hs'
    exact (PulsesAt.emit (fun _ e => by cases e; rfl) s).trans (.advance ..)

/-- R175: so do the pulses of any number of actions. -/
theorem PulsesAt.scanActions {s : State} {j : ScanJob} (hs : s.scan = some j) (n : Nat) : PulsesAt j.t s (scanActions n s) := by
  induction n generalizing s j with
  | zero => exact .of_trace_eq rfl
  | succ n ih =>
    have m := scanAction_move s
    refine (m.pulsesAt hs).trans ?_
    cases hs' : (scanAction s).scan with
    | none => exact .of_trace_eq (congrArg State.trace (scanActions_of_none hs' n))
    | some j' => exact m.jobTime hs hs' ▸ ih hs'

/-- R175: a `TICK` with no scan in progress has `ONTIME` in all its pulses. -/
theorem PulsesAt.execTick {s t : State} (hs : s.scan = none) (h : execTick s = .next t) : PulsesAt s.ontime s t := by
  obtain ⟨-, rfl⟩ | ⟨-, n, h⟩ := gatedScan_next h
  · exact .of_trace_eq rfl
  · rw [scanActions_of_none hs] at h
    obtain ⟨-, rfl⟩ | ⟨-, h⟩ := h
    · exact .of_trace_eq rfl
    · obtain rfl | ⟨k, m, rfl⟩ := scanSteps_next h
      · exact .of_trace_eq rfl
      · exact PulsesAt.scanActions (s := s.setScan (some (sequencedJob s k))) rfl m

/-- R175: a held `TICK` of a running scanner begins its job. -/
theorem execTick_held {s : State} (hs : s.scan = none) (hh : s.hold = true) (hrun : s.run = true) (hf : s.fault = false) {k : Nat}
    (hk : s.cfg.stepsPerTick = k + 1) : execTick s = .next (s.setScan (some (sequencedJob s k))) := by
  unfold execTick
  rw [gatedScan_open (by simp [State.scannerStopped, hrun, hf]) hs, hk]
  exact if_pos hh

/-- `POWER 0` keeps the job's on-time, if it leaves the job (R202). -/
theorem ScanJob.powerOff_t {j j' : ScanJob} (h : j.powerOff = some j') : j'.t = j.t := by
  unfold ScanJob.powerOff at h
  split at h <;> cases h
  rfl

theorem writePixel_scan {tb : BufNo} {x y : BitVec 16} {r g b : BitVec 8} {s t : State} (h : writePixel tb x y r g b s = .next t) :
    t.scan = s.scan := by
  obtain rfl | ⟨ws, n, rfl⟩ := writePixel_next h <;> rfl

/-- R270: of the writer's operations only `POWER 0` and `SCANSTEP` touch the scan operation in progress. -/
theorem exec_writer_scan {i : Instr} {s t : State} (hw : i.issuer = .writer) (hm : i.mnemonic ≠ "SCANSTEP") (h : exec i s = .next t) :
    t.scan = s.scan ∨ t.scan = s.scan.bind ScanJob.powerOff := by
  cases i with
  | tick | step | swtmo => cases hw
  | scanstep => exact absurd rfl hm
  | nop | selbuf _ | setont _ => cases h; exact .inl rfl
  | setpx | setpxb => exact .inl (writePixel_scan h)
  | swap =>
    change execSwap s = _ at h
    unfold execSwap at h
    split at h <;> cases h <;> exact .inl rfl
  | power on =>
    change execPower on s = _ at h
    unfold execPower at h
    split at h <;> cases h
    · exact .inl rfl
    · exact .inr rfl
  | rdreg n =>
    change execRdreg n s = _ at h
    unfold execRdreg at h
    split at h <;> cases h <;> exact .inl rfl

/-- Settles O28: at once, held, action by action, and over the writer's operations. -/
theorem tickUsesOneOnTime : Obligations.TickUsesOneOnTime := by
  unfold Obligations.TickUsesOneOnTime
  refine ⟨fun s t hs h => PulsesAt.execTick hs h, fun s hs hh hrun hf hn => ?_, fun s j hs => ?_, fun us s => ⟨_, rfl, rfl, rfl⟩,
    fun i s t j' hw hm h ht => ?_⟩
  · obtain ⟨k, hk⟩ := Nat.exists_eq_succ_of_ne_zero hn
    exact ⟨_, sequencedJob s k, execTick_held hs hh hrun hf hk, rfl, rfl, rfl, rfl⟩
  · have m := scanAction_move s
    exact ⟨m.pulsesAt hs, fun j' => m.jobTime hs⟩
  · obtain hkept | hoff := exec_writer_scan hw hm h
    · exact ⟨j', hkept.symm.trans ht, rfl⟩
    · obtain ⟨j, hs, hj⟩ := Option.bind_eq_some_iff.mp (hoff.symm.trans ht)
      exact ⟨j, hs, ScanJob.powerOff_t hj⟩

end Sys2Proof.Machine
end

section
/-! SUPPORT. A job of the sequencer is as many `STEP`s as it has scan steps, so a `TICK` is `STEPS_PER_TICK` `STEP`s (42_scan.md R175, R176,
30_encoding.md R111), whatever the transport answers and whether or not the scanner is stopped. -/

namespace Sys2Proof.Machine

/-- The configuration is legal, the position is one of the sequencer's, and the scanner is idle; it may be stopped. -/
structure State.AtRest (s : State) : Prop where
  position : s.PositionInv
  idle : s.ScannerIdle

theorem State.AtRest.running {s : State} (h : s.AtRest) (hst : s.scannerStopped = false) : s.Running := by
  simp only [State.scannerStopped, Bool.or_eq_false_iff, Bool.not_eq_false'] at hst
  exact ⟨h.position.1, h.position.2, hst⟩

theorem State.Running.positionInv {s : State} (h : s.Running) : s.PositionInv := ⟨h.1, h.2.1⟩

/-- R256: a failed step keeps the parameters and the on-time, and a fault halts the scanner. -/
theorem State.stepFailed_stopped (s : State) (j : ScanJob) : (s.stepFailed j).cfg = s.cfg ∧ (s.stepFailed j).ontime = s.ontime ∧
    (s.stepFailed j).scan = none ∧ (s.stepFailed j).hold = s.hold ∧ (s.stepFailed j).scannerStopped = true := by
  simp [State.stepFailed, State.scannerStopped, State.emitAll_eq]

/-! A stopped scanner -/

/-- R174: `STEP`s of a stopped scanner. -/
theorem execAll_steps_stopped {s : State} (h : s.scannerStopped = true) (k : Nat) : execAll (List.replicate k .step) s = .next s := by
  induction k with
  | zero => rfl
  | succ k ih =>
    have hstep : exec .step s = .next s := gatedScan_closed h
    rw [List.replicate_succ, execAll, hstep]
    exact ih

/-- The gate of R174 ends the sequencer's job before its next step. -/
theorem scanActions_sequenced_stopped {j : ScanJob} {s : State} (hs : s.scan = some j) (hp : j.pos = 0) (hd : j.direct = false)
    (hst : s.scannerStopped = true) (n : Nat) : scanActions (n + 1) s = s.setScan none := by
  have hgate : scanAction s = s.setScan none := by
    rw [scanAction_begin hs hp]
    unfold scanBegin
    simp [hd, hst]
  rw [scanActions, hgate]
  exact scanActions_of_none rfl n

/-! One step of a job -/

/-- What the actions of one scan step leave to do after the `STEP` that leads to `u`: with the scanner stopped nothing, else the job's
other steps. -/
inductive StepOfJob (j : ScanJob) (s u : State) : Prop where
  | ended : u.scannerStopped = true → scanActions (stepActions s.cfg) (s.setScan (some j)) = u → StepOfJob j s u
  | next : scanActions (stepActions s.cfg) (s.setScan (some j)) = u.setScan (j.nextSequenced s) → StepOfJob j s u

section
variable {s : State} (h : s.AtRest)
include h

/-- The first scan step of a job of the sequencer is a `STEP`: with the gate closed, let down, or completed (R175, R176). -/
theorem exec_step_stepOfJob {j : ScanJob} (hp : j.pos = 0) (hd : j.direct = false) (ht : j.t = s.ontime) :
    ∃ u, exec .step s = .next u ∧ u.AtRest ∧ u.cfg = s.cfg ∧ u.ontime = s.ontime ∧ StepOfJob j s u := by
  obtain ⟨hpos, hidle⟩ := h
  cases hst : s.scannerStopped with
  | true =>
    refine ⟨s, gatedScan_closed hst, ⟨hpos, hidle⟩, rfl, rfl, .ended hst ?_⟩
    refine (scanActions_sequenced_stopped (s := s.setScan (some j)) rfl hp hd hst _).trans ?_
    rw [State.setScan_setScan, State.setScan_none hidle.1]
  | false =>
    have hrun : s.Running := State.AtRest.running ⟨hpos, hidle⟩ hst
    cases ho : failing s.cfg s.nextOutcome with
    | true =>
      obtain ⟨hcfg, hontime, hscan, hhold, hstop⟩ := s.stepFailed_stopped j
      have hpos' := hpos.of_same hcfg (s.stepFailed_mux_plane j).1
      refine ⟨s.stepFailed j, execStep_failed hrun hidle ho, ⟨hpos', hscan, hhold.trans hidle.2⟩, hcfg, hontime, .ended hstop ?_⟩
      exact (scanActions_sequenced_failed (s := s.setScan (some j)) rfl hp hd hst ho).trans (s.setScan_stepFailed ..)
    | false =>
      have hkeeps := (s.stepped_keeps s.ontime).1
      refine ⟨s.stepped s.ontime, execStep_done hrun hidle ho, ⟨s.stepped_positionInv hpos _, s.stepped_idle hidle _⟩, hkeeps.cfg,
        hkeeps.ontime, .next ?_⟩
      refine (scanActions_sequenced_done (s := s.setScan (some j)) rfl hp hd hst ho).trans ?_
      rw [State.setScan_stepped, State.setScan_setScan, ht]
      rfl

/-- A run of `STEP`s answers a next state at rest. -/
theorem execAll_steps_atRest (k : Nat) :
    ∃ t, execAll (List.replicate k .step) s = .next t ∧ t.AtRest ∧ t.cfg = s.cfg := by
  induction k with
  | zero => exact ⟨s, rfl, h, rfl⟩
  | succ k ih =>
    obtain ⟨t, ht, hrest, hcfg⟩ := ih
    obtain ⟨u, hu, hrest', hcfg', -⟩ := exec_step_stepOfJob hrest (j := sequencedJob t 0) rfl rfl rfl
    exact ⟨u, (execAll_step_succ ht).trans hu, hrest', hcfg'.trans hcfg⟩

end

/-! All steps of a job -/

/-- A job of the sequencer, run to its end, is as many `STEP`s as it has scan steps (R175, R176). -/
theorem execAll_steps_eq_job {s : State} (h : s.AtRest) {n : Nat} {j : ScanJob} (hp : j.pos = 0) (hd : j.direct = false)
    (ht : j.t = s.ontime) (hn : j.more = n) :
    execAll (List.replicate (n + 1) .step) s =
      .next (scanActions (stepActions s.cfg + n * stepActions s.cfg) (s.setScan (some j))) := by
  induction n generalizing s j with
  | zero =>
    obtain ⟨u, hu, hrest, -, -, hj⟩ := exec_step_stepOfJob h hp hd ht
    rw [List.replicate_one, execAll_singleton, hu, Nat.zero_mul, Nat.add_zero]
    cases hj with
    | ended _ e => rw [e]
    | next e => rw [e, ScanJob.nextSequenced, hn, State.setScan_none hrest.idle.1]
  | succ n ih =>
    obtain ⟨u, hu, hrest, hcfg, hontime, hj⟩ := exec_step_stepOfJob h hp hd ht
    rw [List.replicate_succ, execAll, hu, scanActions_add]
    cases hj with
    | ended hst e => rw [e, scanActions_of_none hrest.idle.1]; exact execAll_steps_stopped hst _
    | next e =>
      rw [e, ScanJob.nextSequenced, hn, Nat.succ_mul, Nat.add_comm (n * _), ← hcfg]
      exact ih (j := { j with buf := s.actbuf, plane := s.plane, mux := s.mux, outcome := s.nextOutcome, pos := 0, more := n })
        hrest rfl hd (ht.trans hontime.symm) rfl

/-- R175, R111: a `TICK` is `STEPS_PER_TICK` `STEP`s. -/
theorem exec_tick_eq_steps {s : State} (h : s.AtRest) : exec .tick s = execAll (List.replicate s.cfg.stepsPerTick .step) s := by
  cases hst : s.scannerStopped with
  | true =>
    rw [execAll_steps_stopped hst]
    exact gatedScan_closed hst
  | false =>
    have hticks : exec .tick s = scanSteps s.cfg.stepsPerTick s := gatedScan_open hst h.idle.1
    rw [hticks]
    cases s.cfg.stepsPerTick with
    | zero => rfl
    | succ k => rw [scanSteps_running (h.running hst) h.idle, execAll_steps_eq_job h (n := k) (j := sequencedJob s k) rfl rfl rfl rfl]

/-- R175: several `TICK`s. -/
theorem execAll_ticks_eq_steps {s : State} (h : s.AtRest) (m : Nat) :
    execAll (List.replicate m .tick) s = execAll (List.replicate (m * s.cfg.stepsPerTick) .step) s := by
  induction m generalizing s with
  | zero => rw [Nat.zero_mul, List.replicate_zero, List.replicate_zero]
  | succ m ih =>
    obtain ⟨t, ht, hrest, hcfg⟩ := execAll_steps_atRest h s.cfg.stepsPerTick
    rw [List.replicate_succ, execAll, exec_tick_eq_steps h, ht, Nat.succ_mul, Nat.add_comm, List.replicate_add, execAll_append ht, ← hcfg]
    exact ih hrest

/-- Settles O26: both are the sequencer's steps one after another. -/
theorem tickIsRepeatedStep : Obligations.TickIsRepeatedStep := by
  unfold Obligations.TickIsRepeatedStep
  intro s hpos hidle
  obtain ⟨t, ht, -⟩ := execAll_steps_atRest ⟨hpos, hidle⟩ s.cfg.stepsPerTick
  exact ⟨t, (exec_tick_eq_steps ⟨hpos, hidle⟩).trans ht, ht⟩

end Sys2Proof.Machine
end

section
/-! SUPPORT. The events of scan steps one after another in the same cycle, by their positions: a plane pass and a refresh cycle (42_scan.md
R175, R177, R179, 00_scope.md R19). -/

namespace Sys2Proof.Machine

/-! The events by position -/

/-- The events of the completed scan step at a position of the cycle (R170, R179). -/
def positionEvents (c : Config) (m : Memory) (b : BufNo) (t : BitVec 16) (p : Nat) : List Event :=
  stepEvents c m b (BitVec.ofNat 3 (p / c.rp)) (BitVec.ofNat 5 (p % c.rp)) t

/-- The events of `k` completed scan steps from a position on. -/
def positionsEvents (c : Config) (m : Memory) (b : BufNo) (t : BitVec 16) (p k : Nat) : List Event :=
  (List.range' p k).flatMap (positionEvents c m b t)

theorem positionsEvents_add (c : Config) (m : Memory) (b : BufNo) (t : BitVec 16) (p k l : Nat) :
    positionsEvents c m b t p (k + l) = positionsEvents c m b t p k ++ positionsEvents c m b t (p + k) l := by
  rw [positionsEvents, ← List.range'_append_1, List.flatMap_append]
  rfl

theorem positionsEvents_one (c : Config) (m : Memory) (b : BufNo) (t : BitVec 16) (p : Nat) :
    positionsEvents c m b t p 1 = positionEvents c m b t p := by
  simp [positionsEvents]

/-- The events of a step at the sequencer's position. -/
theorem State.stepEvents_eq {s : State} (h : s.mux.toNat < s.cfg.rp) (m : Memory) (b : BufNo) (t : BitVec 16) :
    stepEvents s.cfg m b s.plane s.mux t = positionEvents s.cfg m b t s.position := by
  obtain ⟨hdiv, hmod⟩ := div_mod_of_digits (q := s.plane.toNat) h
  rw [positionEvents, State.position, hdiv, hmod, BitVec.ofNat_toNat, BitVec.ofNat_toNat, BitVec.setWidth_eq, BitVec.setWidth_eq]

/-- The position as a number names the plane and the address. -/
theorem State.plane_mux_of_position {s : State} (h : s.mux.toNat < s.cfg.rp) {q x : Nat} (hx : x < s.cfg.rp)
    (hp : s.position = q * s.cfg.rp + x) : s.plane.toNat = q ∧ s.mux.toNat = x := by
  obtain ⟨hdiv, hmod⟩ := div_mod_of_digits (q := s.plane.toNat) h
  obtain ⟨hdiv', hmod'⟩ := div_mod_of_digits (q := q) hx
  rw [State.position] at hp
  exact ⟨by rw [← hdiv, hp, hdiv'], by rw [← hmod, hp, hmod']⟩

/-- The first position of a plane. -/
theorem State.position_of_mux_zero {s : State} (h : s.mux = 0) : s.position = s.plane.toNat * s.cfg.rp := by
  simp [State.position, h]

/-- R19, R179: a plane pass is the steps at the `RP` positions of its plane. -/
theorem passEvents_eq_positions (c : Config) (m : Memory) (b : BufNo) (q : Nat) (t : BitVec 16) :
    passEvents c m b q t = positionsEvents c m b t (q * c.rp) c.rp := by
  rw [passEvents, positionsEvents, List.range'_eq_map_range, List.flatMap_map]
  refine List.flatMap_congr fun x hx => ?_
  obtain ⟨hdiv, hmod⟩ := div_mod_of_digits (q := q) (List.mem_range.mp hx)
  rw [positionEvents, hdiv, hmod]

/-- R179: the first planes of a refresh cycle. -/
theorem planesEvents_eq_positions (c : Config) (m : Memory) (b : BufNo) (t : BitVec 16) (n : Nat) :
    (List.range n).flatMap (fun q => passEvents c m b q t) = positionsEvents c m b t 0 (n * c.rp) := by
  induction n with
  | zero => rw [Nat.zero_mul]; rfl
  | succ n ih =>
    rw [List.range_succ, List.flatMap_append, ih, List.flatMap_singleton, passEvents_eq_positions, Nat.succ_mul, positionsEvents_add,
      Nat.zero_add]

theorem cycleEvents_eq_positions (c : Config) (m : Memory) (b : BufNo) (t : BitVec 16) :
    cycleEvents c m b t = positionsEvents c m b t 0 (8 * c.rp) := planesEvents_eq_positions c m b t 8

/-! Runs of `STEP`s -/

/-- `u` is `k` completed scan steps after `s`, none of them but the last at the end of the cycle: their events were emitted, and the
response to a pending `SWAP` where the cycle has ended. -/
structure Swept (s u : State) (k : Nat) : Prop where
  trace : u.trace = s.trace ++ positionsEvents s.cfg s.mem s.actbuf s.ontime s.position k ++
    (if s.position + k = 8 * s.cfg.rp ∧ s.swappend = true then [.rsp 0] else [])
  mem : u.mem = s.mem
  ontime : u.ontime = s.ontime
  draws : u.draws = s.draws + k
  fault : u.fault = s.fault

theorem Swept.refl {s : State} (h : s.PositionInv) : Swept s s 0 where
  trace := by
    have hlt := State.position_lt h
    rw [if_neg (by omega)]
    simp [positionsEvents]
  mem := rfl
  ontime := rfl
  draws := rfl
  fault := rfl

/-- One more step. -/
theorem Swept.stepped {s u : State} {k : Nat} (h : Swept s u k) (hsame : SameCycle s u k) (hrun : u.Running) :
    Swept s (u.stepped u.ontime) (k + 1) := by
  obtain ⟨hcfg, hpos, hact, -, hpend⟩ := hsame
  obtain ⟨hkeeps, -, hfault, -, -, -, -, -, hdraws⟩ := u.stepped_keeps u.ontime
  have hlt := State.position_lt hrun.positionInv
  refine ⟨?_, hkeeps.mem.trans h.mem, hkeeps.ontime.trans h.ontime, hdraws.trans (congrArg (· + 1) h.draws), hfault.trans h.fault⟩
  have hlast : (u.plane = 7 ∧ u.mux.toNat = u.cfg.rp - 1 ∧ u.swappend = true) ↔
      (s.position + (k + 1) = 8 * s.cfg.rp ∧ s.swappend = true) := by
    rw [← and_assoc, ← State.position_last_iff hrun, hpos, hcfg, hpend, Nat.add_assoc]
  have hbefore : ¬ (s.position + k = 8 * s.cfg.rp ∧ s.swappend = true) := by
    rw [← hpos, ← hcfg]
    omega
  rw [u.stepped_trace hrun, State.stepEvents_eq hrun.2.1, h.trace, if_neg hbefore, List.append_nil, positionsEvents_add, positionsEvents_one,
    hcfg, hpos, hact, h.mem, h.ontime]
  simp only [← hcfg, hlast, List.append_assoc]

/-- R177, R179: as many `STEP`s as the cycle still has, or fewer: the last of them, and what they all have done. -/
theorem execAll_steps_swept {s : State} {k : Nat} (h : s.Scans (k + 1)) (hk : k < s.stepsLeft) :
    ∃ u, SameCycle s u k ∧ u.Running ∧ execAll (List.replicate (k + 1) .step) s = .next (u.stepped u.ontime) ∧
      Swept s (u.stepped u.ontime) (k + 1) := by
  induction k with
  | zero =>
    have hrefl := Swept.refl h.running.positionInv
    have hsame : SameCycle s s 0 := ⟨rfl, rfl, .refl s⟩
    exact ⟨s, hsame, h.running, (execAll_singleton ..).trans h.exec_step, hrefl.stepped hsame h.running⟩
  | succ k ih =>
    obtain ⟨u, -, -, hu, hswept⟩ := ih (h.mono (by omega)) (by omega)
    obtain ⟨v, hv, hscans, hsame⟩ := execAll_steps_sameCycle h (k := k + 1) (by omega) hk
    cases hu.symm.trans hv
    have hone : (u.stepped u.ontime).Scans (0 + 1) := hscans.mono (by omega)
    exact ⟨_, hsame, hone.running, (execAll_step_succ hu).trans hone.exec_step, hswept.stepped hsame hone.running⟩

/-- R177: the end of a plane is the end of the cycle where the plane is the last. -/
theorem State.position_add_rp_iff {s : State} (h : s.Running) (hm : s.mux = 0) : s.position + s.cfg.rp = 8 * s.cfg.rp ↔ s.plane = 7 := by
  have hrp := h.rp_pos
  rw [State.position_of_mux_zero hm, ← Nat.succ_mul, Nat.mul_left_inj (by omega)]
  bv_omega

/-- R175, R177: `RP` `STEP`s from the first address of a plane are a plane pass, after which the next plane has its turn. -/
theorem execAll_steps_pass {s : State} (h : s.Scans s.cfg.rp) (hm : s.mux = 0) :
    ∃ t, execAll (List.replicate s.cfg.rp .step) s = .next t ∧ Swept s t s.cfg.rp ∧ t.mux = 0 ∧
      t.plane.toNat = (s.plane.toNat + 1) % 8 := by
  have hrp := h.running.rp_pos
  have hposition := State.position_of_mux_zero hm
  have hplane : (s.plane.toNat + 1) * s.cfg.rp ≤ 8 * s.cfg.rp := Nat.mul_le_mul_right _ s.plane.isLt
  rw [Nat.succ_mul, ← hposition] at hplane
  obtain ⟨k, hk⟩ : ∃ k, s.cfg.rp = k + 1 := Nat.exists_eq_succ_of_ne_zero (by omega)
  obtain ⟨u, hsame, hrun, hu, hswept⟩ := execAll_steps_swept (k := k) (h.mono (by omega)) (by unfold State.stepsLeft; omega)
  obtain ⟨hplaneu, hmuxu⟩ := State.plane_mux_of_position hrun.2.1 (q := s.plane.toNat) (x := k) (by rw [hsame.cfg]; omega)
    (by rw [hsame.position, hposition, hsame.cfg])
  obtain ⟨hmux, hplane'⟩ := (State.stepped_mux_plane hrun u.ontime).2 (by rw [hsame.cfg]; omega)
  exact ⟨_, hk ▸ hu, hk ▸ hswept, hmux, by rw [hplane', hplaneu]⟩

/-! The obligations -/

/-- Settles O27: the `TICK` is the `STEP`s of a plane's positions. -/
theorem tickIsOnePlanePass : Obligations.TickIsOnePlanePass := by
  unfold Obligations.TickIsOnePlanePass
  intro s hrun hidle hok hper hmux
  obtain ⟨t, ht, hswept, hmux', hplane'⟩ := execAll_steps_pass ⟨hrun, hidle, hok⟩ hmux
  refine ⟨t, ?_, ?_, hmux', hplane', hswept.mem, hswept.draws, hswept.fault.trans hrun.2.2.2⟩
  · rw [exec_tick_eq_steps ⟨hrun.positionInv, hidle⟩, hper, ht]
  · rw [hswept.trace, passEvents_eq_positions, ← State.position_of_mux_zero hmux]
    simp only [State.position_add_rp_iff hrun hmux]

/-- Settles O29: the steps of all positions, and the boundary after the last. -/
theorem cycleVisitsEveryPositionInOrder : Obligations.CycleVisitsEveryPositionInOrder := by
  unfold Obligations.CycleVisitsEveryPositionInOrder
  intro s hrun hidle hok hplane hmux
  have hrp := hrun.rp_pos
  have hstart : s.position = 0 := by rw [State.position_of_mux_zero hmux, hplane]; exact Nat.zero_mul _
  obtain ⟨k, hk⟩ : ∃ k, 8 * s.cfg.rp = k + 1 := Nat.exists_eq_succ_of_ne_zero (by omega)
  obtain ⟨u, hsame, hrun', hu, hswept⟩ :=
    execAll_steps_swept (k := k) ⟨hrun, hidle, hk ▸ hok⟩ (by unfold State.stepsLeft; omega)
  have hlast : u.position + 1 = 8 * u.cfg.rp := by rw [hsame.position, hsame.cfg, hstart]; omega
  have hend := (State.stepped_ended hrun' hlast u.ontime).of_kept hsame.swap
  rw [← hk] at hu hswept
  refine ⟨_, hu, fun hper => ?_, ?_, hend.plane, hend.mux, hend.actbuf, hend.swaprdy, hswept.mem, hswept.fault.trans hrun.2.2.2⟩
  · rw [execAll_ticks_eq_steps ⟨hrun.positionInv, hidle⟩, hper, hu]
  · rw [hswept.trace, cycleEvents_eq_positions, hstart, Nat.zero_add]
    simp

end Sys2Proof.Machine
end

section
/-! SUPPORT. The light of a pixel (42_scan.md R195, R196): the eight plane passes of a cycle show its eight threshold bits, each once. -/

namespace Sys2Proof.Machine

/-- R70: the planes of a channel's eight threshold indices are the eight planes. -/
theorem map_planeOf_perm {c : Config} (h : configLegal c = true) (ch : Channel) :
    ((List.range 8).map fun p => planeOf c p ch).Perm (List.range 8) := by
  have hnodup : ((List.range 8).map fun p => planeOf c p ch).Nodup := by
    refine List.Nodup.map_on (fun p hp p' hp' heq => ?_) List.nodup_range
    rw [← thresholdOf_planeOf h (List.mem_range.mp hp) ch, heq, thresholdOf_planeOf h (List.mem_range.mp hp') ch]
  refine (List.perm_ext_iff_of_nodup hnodup List.nodup_range).mpr fun q => ?_
  simp only [List.mem_map, List.mem_range]
  constructor
  · rintro ⟨p, hp, rfl⟩
    exact planeOf_lt c hp ch
  · intro hq
    exact ⟨thresholdOf c q ch, thresholdOf_lt c hq ch, planeOf_thresholdOf h hq ch⟩

/-- R196, R132: a pixel is lit in as many plane passes as its channel has threshold bits set. -/
theorem litPasses_eq_channelCount {c : Config} (h : configLegal c = true) (m : Memory) (b : BufNo) (x2 y2 : Nat) (ch : Channel) :
    litPasses c m b x2 y2 ch = channelCount c m b x2 y2 ch := by
  rw [litPasses, channelCount, colorDepth, ← (map_planeOf_perm h ch).countP_eq, List.countP_map]
  rfl

/-- Settles O44: the counts of the three channels after the 24 writes. -/
theorem lightOfAPixelIsItsLevel : Obligations.LightOfAPixelIsItsLevel := by
  unfold Obligations.LightOfAPixelIsItsLevel
  intro c m tb x2 y2 r g b h hm hx hy hr hg hb
  have hlit {ch : Channel} (h0 : channelOffset c ch = 0) :=
    (litPasses_eq_channelCount h _ tb x2 y2 ch).trans (channelCount_pixelWrites h hm hx hy tb r g b h0)
  exact ⟨hlit (ch := .red) hr, hlit (ch := .green) hg, hlit (ch := .blue) hb⟩

end Sys2Proof.Machine
end

section
/-! SUPPORT. The system operations (43_system.md R200 to R203), each in closed form. -/

namespace Sys2Proof.Machine

/-- R96, R97: the word of `NOP` is all zeros. -/
theorem encode_nop : encode .nop = 0 := rfl

/-- R200: `NOP` keeps the state. -/
theorem exec_nop (s : State) : exec .nop s = .next s := rfl

/-- Settles O10: the word is the encoded operation. -/
theorem nopDoesNothing : Obligations.NopDoesNothing := by
  unfold Obligations.NopDoesNothing
  exact ⟨encode_nop ▸ decode_encode .nop, exec_nop⟩

/-- R201: `SETONT` is one write. -/
theorem exec_setont (us : BitVec 16) (s : State) : exec (.setont us) s = .next { s with ontime := us } := rfl

/-- Settles O11: the write is all of the operation. -/
theorem setontWritesOntime : Obligations.SetontWritesOntime := by
  unfold Obligations.SetontWritesOntime
  exact exec_setont

/-- R202, R275: the timer starts. -/
theorem exec_power_on (s : State) : exec (.power 1) s = .next ({ s with run := true }.emit (.pwr true)) := rfl

/-- R202, R275: the timer stops, and a `TICK` in progress with it (log 10). -/
theorem exec_power_off (s : State) :
    exec (.power 0) s = .next ({ s with run := false, scan := s.scan.bind ScanJob.powerOff }.emit (.pwr false)) := rfl

/-- Settles O12: the two branches of `POWER`; the event appends `PWR` and drives `PWR_EN`. -/
theorem powerStartsAndStopsTheTimer : Obligations.PowerStartsAndStopsTheTimer := by
  unfold Obligations.PowerStartsAndStopsTheTimer
  exact fun s => ⟨exec_power_on s, exec_power_off s⟩

/-- R203: `RDREG` of a register answers its view. -/
theorem exec_rdreg_inRange {n : BitVec 3} (h : n.toNat ≤ 6) (s : State) : exec (.rdreg n) s = .next (s.respond (view s n)) :=
  if_pos (decide_eq_true h)

/-- R203, R109: register 7 is rejected and answers 0. -/
theorem exec_rdreg_reserved (s : State) : exec (.rdreg 7) s = .next (s.commandError.respond 0) := rfl

/-- Settles O13: the word is the encoded operation, and the two branches of `RDREG`. -/
theorem rdregAnswersTheView : Obligations.RdregAnswersTheView := by
  unfold Obligations.RdregAnswersTheView
  refine fun n s => ⟨decode_encode (.rdreg n), fun h => exec_rdreg_inRange h s, ?_⟩
  rintro rfl
  exact exec_rdreg_reserved s

end Sys2Proof.Machine
end

section
/-! SUPPORT. A `STEP` that the transport lets down, read off its closed form (60_exceptions.md R256, 42_scan.md R173). -/

namespace Sys2Proof.Machine

/-- R202, R275: no event of a failed scan step drives `PWR_EN`. -/
theorem pins_after_failed_pwrEn (p : Pins) (c : Config) (m : Memory) (b : BufNo) (q : BitVec 3) (x : BitVec 5) (o : Transport) :
    ((failedEvents c m b q x o).foldl Pins.after p).pwrEn = p.pwrEn := by
  have hsent (l : List Byte) : ((l.map Event.tx).foldl Pins.after (p.after (.addr (addrCode c x)))).pwrEn = p.pwrEn :=
    (pins_after_tx (p.after (.addr (addrCode c x))) l).2.2.2
  cases o with
  | ok => rfl
  | txfail k => exact hsent _
  | latfail => exact hsent _
  | oefail =>
    rw [failedEvents, List.foldl_cons, List.foldl_append]
    exact hsent _

/-- Settles O25: the fault of the sequencer's job at the position, after the events up to the failure. -/
theorem failedStepTakesTheTransportFault : Obligations.FailedStepTakesTheTransportFault := by
  unfold Obligations.FailedStepTakesTheTransportFault
  intro s hrun hidle hfailing
  refine ⟨_, execStep_failed hrun hidle hfailing, ?_⟩
  simp [State.stepFailed, State.emitAll_eq, State.answer_zero, s.atCycleStart_iff, sequencedJob, pins_after_failed_pwrEn]

end Sys2Proof.Machine
end

section
/-! SUPPORT. The two roles (60_exceptions.md R270, R273, 10_state.md R36): what the timer's operations and `SCANSTEP` leave to the writer, and
what the writer's other operations leave to the scanner. -/

namespace Sys2Proof.Machine

/-! The timer's operations and `SCANSTEP` -/

theorem ScanKeeps.startScanner {j : ScanJob} {s t : State} (h : startScanner j s = .next t) : ScanKeeps s t := by
  obtain ⟨n, rfl⟩ := startScanner_next h
  have hset : ScanKeeps s (s.setScan (some j)) := ⟨rfl, rfl, rfl, rfl, rfl, rfl, rfl, rfl, rfl⟩
  exact hset.trans (scanActions_keeps n _)

theorem ScanKeeps.scanSteps {n : Nat} {s t : State} (h : scanSteps n s = .next t) : ScanKeeps s t := by
  cases n with
  | zero => cases h; exact .refl s
  | succ k => exact .startScanner h

theorem ScanKeeps.gatedScan {closed : State → Bool} {k : State → Host.Outcome State Fault Refusal} {s t : State}
    (hk : ∀ u, k u = .next t → ScanKeeps u t) (h : gatedScan closed k s = .next t) : ScanKeeps s t := by
  obtain ⟨-, rfl⟩ | ⟨-, n, ⟨-, rfl⟩ | ⟨-, h⟩⟩ := gatedScan_next h
  · exact .refl _
  · exact scanActions_keeps n s
  · exact (scanActions_keeps n s).trans (hk _ h)

/-- R181: a `SCANSTEP` is rejected with `CMDERR`, or it writes nothing of the writer's. -/
theorem execScanstep_rejected_or_keeps {buf : BufNo} {plane : BitVec 3} {mux : BitVec 5} {ot : BitVec 16} {s t : State}
    (h : execScanstep buf plane mux ot s = .next t) : t = s.commandError ∨ ScanKeeps s t := by
  unfold execScanstep at h
  split at h
  · cases h; exact .inl rfl
  · exact .inr (.gatedScan (fun _ => .startScanner) h)

/-- R270: the timer's operations write nothing of the writer's. -/
theorem exec_timer_keeps {i : Instr} {s t : State} (hi : i.issuer = .timer) (h : exec i s = .next t) : ScanKeeps s t := by
  cases i with
  | tick | step => exact .gatedScan (fun _ => .scanSteps) h
  | swtmo =>
    cases hp : s.swappend with
    | true => rw [exec_swtmo_pending hp] at h; cases h; exact ⟨rfl, rfl, rfl, rfl, rfl, rfl, rfl, rfl, rfl⟩
    | false => rw [exec_swtmo_notPending hp] at h; cases h; exact .refl s
  | nop | setpx | setpxb | selbuf | swap | setont | power | rdreg | scanstep => cases hi

/-- R270, R36: neither the timer's operations nor `SCANSTEP` write a buffer, `WRBUF`, `ONTIME` or `RUN`. -/
theorem exec_scan_keeps_writerState {i : Instr} {s t : State} (hi : i.issuer = .timer ∨ i.mnemonic = "SCANSTEP")
    (h : exec i s = .next t) : t.mem = s.mem ∧ t.wrbuf = s.wrbuf ∧ t.ontime = s.ontime ∧ t.run = s.run := by
  have hcases : t = s.commandError ∨ ScanKeeps s t := by
    obtain ht | hm := hi
    · exact .inr (exec_timer_keeps ht h)
    · cases i with
      | scanstep => exact execScanstep_rejected_or_keeps h
      | _ => simp [Instr.mnemonic] at hm
  obtain rfl | hk := hcases
  · exact ⟨rfl, rfl, rfl, rfl⟩
  · exact ⟨hk.mem, hk.wrbuf, hk.ontime, hk.run⟩

/-! The writer's operations but `SCANSTEP` -/

/-- What only the scanner writes (R270, R273): its position, the buffer on show, `SWAPRDY` and the fault record. -/
def ScannerStateKept (s t : State) : Prop :=
  t.plane = s.plane ∧ t.mux = s.mux ∧ t.actbuf = s.actbuf ∧ t.swaprdy = s.swaprdy ∧ t.fault = s.fault ∧
    t.fcause = s.fcause ∧ t.fplane = s.fplane ∧ t.fmux = s.fmux ∧ t.fbuf = s.fbuf

theorem ScannerStateKept.refl (s : State) : ScannerStateKept s s := ⟨rfl, rfl, rfl, rfl, rfl, rfl, rfl, rfl, rfl⟩

theorem ScannerStateKept.writePixel {tb : BufNo} {x y : BitVec 16} {r g b : BitVec 8} {s t : State}
    (h : writePixel tb x y r g b s = .next t) : ScannerStateKept s t := by
  obtain rfl | ⟨ws, n, rfl⟩ := writePixel_next h
  · exact .refl _
  · exact .refl s

/-- R270, R273: a writer's operation that is no `SCANSTEP` writes registers of the writer's, the handshake, the buffers and the trace only. -/
theorem exec_writer_keeps_scannerState {i : Instr} {s t : State} (hw : i.issuer = .writer) (hm : i.mnemonic ≠ "SCANSTEP")
    (h : exec i s = .next t) : ScannerStateKept s t := by
  cases i with
  | tick | step | swtmo => cases hw
  | scanstep => exact absurd rfl hm
  | nop | selbuf _ | setont _ => cases h; exact .refl s
  | setpx | setpxb => exact .writePixel h
  | swap =>
    cases hr : s.swaprdy with
    | true => rw [exec_swap_ready hr] at h; cases h; exact .refl s
    | false => rw [exec_swap_notReady hr] at h; cases h; exact .refl s
  | power on =>
    obtain rfl | rfl := BufNo.cases on
    · rw [exec_power_off] at h; cases h; exact .refl s
    · rw [exec_power_on] at h; cases h; exact .refl s
  | rdreg n =>
    by_cases hn : n.toNat ≤ 6
    · rw [exec_rdreg_inRange hn] at h; cases h; exact .refl s
    · obtain rfl : n = 7 := by bv_omega
      rw [exec_rdreg_reserved] at h; cases h; exact .refl s

/-- Settles O60: each role leaves the other's state. -/
theorem rolesKeepToTheirState : Obligations.RolesKeepToTheirState := by
  unfold Obligations.RolesKeepToTheirState
  exact fun i s t h => ⟨fun hi => exec_scan_keeps_writerState hi h, fun hw hm => exec_writer_keeps_scannerState hw hm h⟩

end Sys2Proof.Machine
end

section
/-! SUPPORT. The ready window (70_reset_and_hazards.md R302, 10_state.md R26): the sequencer sets `SWAPRDY` only as it comes to position (0, 0),
and clears it as it begins the step there. -/

namespace Sys2Proof.Machine

/-- An update that leaves `SWAPRDY` and the position alone and, while `SWAPRDY` is 1, begins no step of the sequencer. -/
theorem State.ReadyWindowInv.of_same {s t : State} (h : s.ReadyWindowInv) (hr : t.swaprdy = s.swaprdy) (hp : t.plane = s.plane)
    (hm : t.mux = s.mux) (hj : s.swaprdy = true → ∀ j, t.scan = some j → j.direct = false → j.pos = 0) : t.ReadyWindowInv := by
  intro hready
  rw [hr] at hready
  obtain ⟨hplane, hmux, -⟩ := h hready
  exact ⟨hp.trans hplane, hm.trans hmux, hj hready⟩

/-- A begun step in progress while `SWAPRDY` is 1 is a `SCANSTEP`'s. -/
theorem State.ReadyWindowInv.direct_of_begun {s : State} {j : ScanJob} (h : s.ReadyWindowInv) (hready : s.swaprdy = true)
    (hs : s.scan = some j) (hpos : j.pos ≠ 0) : j.direct = true := by
  obtain ⟨-, -, hjob⟩ := h hready
  by_contra hd
  exact hpos (hjob j hs (by simpa using hd))

/-- R178: the advance sets `SWAPRDY` only where it comes to the cycle start. -/
theorem State.advance_position_of_ready {s : State} (hr : s.swaprdy = false) (h : s.advance.swaprdy = true) :
    s.advance.plane = 0 ∧ s.advance.mux = 0 := by
  unfold State.advance at h ⊢
  split at h
  · cases hr.symm.trans h
  · split at h
    · cases hr.symm.trans h
    · simp [*]

/-- R26, R176: in the window `SWAPRDY` is 1 only at the cycle start, where beginning a step clears it. -/
theorem State.ReadyWindowInv.cycleStarted_swaprdy {s : State} (h : s.ReadyWindowInv) : s.cycleStarted.swaprdy = false := by
  rw [State.cycleStarted_swaprdy]
  split
  · rfl
  · rename_i hstart
    by_contra hready
    obtain ⟨hplane, hmux, -⟩ := h (by simpa using hready)
    exact hstart (s.atCycleStart_iff.mpr ⟨hplane, hmux⟩)

/-- A job goes on from the beginning of a step. -/
theorem ScanJob.next_pos {j j' : ScanJob} (h : j.next = some j') : j'.pos = 0 := by
  unfold ScanJob.next at h
  split at h
  · cases h
  · split at h <;> cases h
    rfl

/-- `POWER 0` leaves the job in its step, if it leaves the job. -/
theorem ScanJob.powerOff_step {j j' : ScanJob} (h : j.powerOff = some j') : j'.direct = j.direct ∧ j'.pos = j.pos := by
  unfold ScanJob.powerOff at h
  split at h <;> cases h
  exact ⟨rfl, rfl⟩

/-- R26: beginning a step of the sequencer closes the window, and only its output-enable opens it again. -/
theorem ScanMove.readyWindowInv {s t : State} (m : ScanMove s t) (h : s.ReadyWindowInv) : t.ReadyWindowInv := by
  cases m with
  | idle => exact h
  | stopped | failed => exact h.of_same rfl rfl rfl fun _ _ e => nomatch e
  | beginSequenced => exact fun hready => absurd (h.cycleStarted_swaprdy.symm.trans hready) Bool.false_ne_true
  | beginDirect _ _ hd =>
    refine h.of_same rfl rfl rfl fun _ => ?_
    rintro _ ⟨⟩ hd'
    cases hd.symm.trans hd'
  | sent _ hs hpos | latched hs hpos =>
    refine h.of_same rfl rfl rfl fun hready => ?_
    rintro _ ⟨⟩ hd
    cases (h.direct_of_begun hready hs hpos).symm.trans hd
  | enabledDirect => exact h.of_same rfl rfl rfl fun _ _ e _ => ScanJob.next_pos e
  | @enabledSequenced j hs hpos hd =>
    have hr : (s.emit (.oe j.t)).swaprdy = false := by
      by_contra hready
      cases hd.symm.trans (h.direct_of_begun (by simpa using hready) hs hpos)
    intro hready
    obtain ⟨hplane, hmux⟩ := State.advance_position_of_ready hr hready
    exact ⟨hplane, hmux, fun _ e _ => ScanJob.next_pos e⟩

/-- R202: `POWER 0` begins no step. -/
theorem State.ReadyWindowInv.powerOff {s : State} (h : s.ReadyWindowInv) :
    ({ s with run := false, scan := s.scan.bind ScanJob.powerOff }.emit (.pwr false)).ReadyWindowInv := by
  refine h.of_same rfl rfl rfl fun hready j e hd => ?_
  obtain ⟨j', hs, hj⟩ := Option.bind_eq_some_iff.mp e
  obtain ⟨hdirect, hpos⟩ := ScanJob.powerOff_step hj
  obtain ⟨-, -, hjob⟩ := h hready
  exact hpos.trans (hjob j' hs (hdirect.symm.trans hd))

theorem readyWindowInv_kept : Kept State.ReadyWindowInv :=
  .of_scannerPart (fun _ => .rfl) (action := fun s h => (scanAction_move s).readyWindowInv h)
    (sequenced := fun _ _ h _ _ => h.of_same rfl rfl rfl (by rintro _ _ ⟨⟩ _; rfl))
    (direct := fun _ _ _ _ _ h _ _ _ _ => h.of_same rfl rfl rfl (by rintro _ _ ⟨⟩ _; rfl))
    (pend := fun _ h _ => h) (timeout := fun _ h => h) (powerOn := fun _ h => h) (powerOff := fun _ h => h.powerOff)

/-- Settles O52: of the named updates only the scanner's actions open or close the window, and `SWAPRDY` is 0 at a restart. -/
theorem stepKeepsTheReadyWindow : Obligations.StepKeepsTheReadyWindow := by
  unfold Obligations.StepKeepsTheReadyWindow
  intro s t h hstep
  exact readyWindowInv_kept.step h hstep fun i0 i1 _ _ _ => State.powerUp_readyWindowInv s.cfg (s.mem.launch + 1) i0 i1

end Sys2Proof.Machine
end

section
/-! SUPPORT. Illegal configurations and restart, as equations of the step (00_scope.md R10, R12, 70_reset_and_hazards.md R290, R292). -/

namespace Sys2Proof.Machine

/-- R292: the step refuses a configuration that cannot be constructed. -/
theorem step_illegal {s : State} (h : configLegal s.cfg = false) : step s = .refused .illegalConfiguration :=
  if_neg (by simp [h])

/-- The conditions of R12, one by one. -/
theorem linesLegal_iff (c : Config) : linesLegal c = true ↔ 1 ≤ c.nAddr ∧ c.nAddr ≤ 15 ∧
    (c.muxPattern = .binary → c.rp ≤ 2 ^ c.nAddr) ∧ (c.muxPattern = .straight → c.rp ≤ c.nAddr) := by
  unfold linesLegal
  cases c.muxPattern <;> simp [and_assoc]

/-- Settles O9: a legal configuration meets the conditions of R10 and of R12; the three examples are evaluated. -/
theorem illegalConfigurationIsRefused : Obligations.IllegalConfigurationIsRefused := by
  unfold Obligations.IllegalConfigurationIsRefused
  refine ⟨fun s hbad => step_illegal ?_, by decide, by decide, by decide⟩
  by_contra hlegal
  obtain ⟨⟨hw, hw', hw8, hrh, hh, hmod, hrp⟩, -, hlines⟩ := (configLegal_iff s.cfg).mp (by simpa using hlegal)
  exact hbad ⟨hw, hw', hw8, hrp, hrh, hh, hmod, (linesLegal_iff s.cfg).mp hlines⟩

/-- R290: a restart at the head of the inputs is taken as reset. -/
theorem step_restart_eq {s : State} {i0 i1 : List Byte} {rest : List Input} (hc : configLegal s.cfg = true)
    (hi : s.inputs = .restart i0 i1 :: rest) : step s = .next (s.consumed.restarted i0 i1) := by
  unfold step
  rw [if_pos hc, hi]
  rfl

/-- Settles O57: the restarted state is the power-up state, with the rest of the inputs. -/
theorem restartIsReset : Obligations.RestartIsReset := by
  unfold Obligations.RestartIsReset
  intro s i0 i1 rest hc hi
  rw [step_restart_eq hc hi]
  simp [State.restarted, hi]

end Sys2Proof.Machine
end
